-- ==== Sys2Proof/Word.lean ====
section
/-! DEFINITION. The words of the block: a Sample, a register address, a register value and a
command word, at the widths of 00_scope.md R6 and 30_encoding.md R78. -/

namespace Sys2Proof

/-- One byte, the state of all bus lines for one clock half-period (R59, `SAMPLE_W` = 8). -/
abbrev Sample := BitVec 8

/-- A register address of the target (R37, `ADDR_W` = 8). -/
abbrev Addr := BitVec 8

/-- A register value of the target (R37, `DATA_W` = 32). -/
abbrev Value := BitVec 32

/-- A command word (R78). -/
abbrev CmdWord := BitVec 42

end Sys2Proof
end

