-- ==== Sys2Proof/Syntax.lean ====
section
/-! DEFINITION. The operations of the block (30_encoding.md R86, opcode_table.json): one
constructor per row. Every operation carries both operand fields of the command word, because
acceptance latches both (R79) whether or not the operation reads them (R80; log 18). -/

namespace Sys2Proof

/-- One operation with the operand fields of its command word. `op = 3` selects no operation (R81)
and has no constructor. -/
inductive Instr where
  /-- SYNC (R99). Both fields are ignored but latched (R80, R101). -/
  | sync (addr : Addr) (value : Value)
  /-- WRITE `value` to register `addr` (R106). -/
  | write (addr : Addr) (value : Value)
  /-- READ register `addr` (R112). `value` is ignored but latched (R80, R117). -/
  | read (addr : Addr) (value : Value)
  deriving DecidableEq, Repr

/-- One line of the text of R84, its numbers as written. -/
inductive Line where
  | sync
  | write (addr value : Nat)
  | read (addr : Nat)
  deriving DecidableEq, Repr

end Sys2Proof
end

