-- ==== Sys2Proof/WellFormed.lean ====
section
/-! DEFINITION. The checks on terms. An operation's fields are bit vectors of the command word's
own widths and any pattern in them is legal (R44, R80, R105, R111), so an operation has no check to
fail; the checks that can fail are on the numbers of a text line (R84), on the `width` of
`encode_bits` (R90) and on a pin binding (`Pins.Valid`, R60). -/

namespace Sys2Proof

/-- Every address, every value and every content of an ignored field is legal. -/
def Instr.wellFormed : Instr → Bool
  | .sync _ _ => true
  | .write _ _ => true
  | .read _ _ => true

/-- R84: `<addr>` in 0 to 255 and `<value>` in 0 to 4294967295. -/
def Line.wellFormed : Line → Bool
  | .sync => true
  | .write addr value => decide (addr ≤ 255) && decide (value ≤ 4294967295)
  | .read addr => decide (addr ≤ 255)

/-- R90: `encode_bits` accepts every width from 0 to `MAX_W` = 32 and no other. -/
def widthOk (width : Nat) : Bool := decide (width ≤ 32)

end Sys2Proof
end

