-- ==== Sys2Proof/Decode.lean ====
section
/-! DEFINITION. The command word (30_encoding.md R78 to R81): decoder and encoder, and the text of
R84. -/

namespace Sys2Proof

/-- Why a command word selects no operation. -/
inductive DecodeError where
  /-- `op` = 3 is reserved (R81). -/
  | reservedOp
  deriving DecidableEq, Repr

/-- `op`, bits 41:40 (R78). -/
def opField (w : CmdWord) : BitVec 2 := w.extractLsb' 40 2

/-- `addr`, bits 39:32 (R78). -/
def addrField (w : CmdWord) : Addr := w.extractLsb' 32 8

/-- `value`, bits 31:0 (R78). -/
def valueField (w : CmdWord) : Value := w.extractLsb' 0 32

/-- R79: the operation a command word selects. -/
def decode (w : CmdWord) : Except DecodeError Instr :=
  match (opField w).toNat with
  | 0 => .ok (.sync (addrField w) (valueField w))
  | 1 => .ok (.write (addrField w) (valueField w))
  | 2 => .ok (.read (addrField w) (valueField w))
  | _ => .error .reservedOp

/-- The command word of an operation (R78). -/
def encode : Instr → CmdWord
  | .sync addr value => (0 : BitVec 2) ++ (addr ++ value)
  | .write addr value => (1 : BitVec 2) ++ (addr ++ value)
  | .read addr value => (2 : BitVec 2) ++ (addr ++ value)

/-- The operation in a word numbered as opcode_table.json numbers it. The command word has 42 bits
(R83): a number with a bit set above bit 41 is no command word. Log 13. -/
def decodeTableWord (nbits w : Nat) : Option Instr :=
  let bits := w % 2 ^ nbits
  if bits < 2 ^ 42 then (decode (BitVec.ofNat 42 bits)).toOption else none

/-- R84: the command of a text line; a number out of range is rejected. The fields a line does not
give are 0, as in the command words printed in 95_test_vectors.md. Log 29. -/
def Line.toInstr (l : Line) : Option Instr :=
  if l.wellFormed then
    match l with
    | .sync => some (.sync 0 0)
    | .write addr value => some (.write (BitVec.ofNat 8 addr) (BitVec.ofNat 32 value))
    | .read addr => some (.read (BitVec.ofNat 8 addr) 0)
  else none

/-- R84: the command word of a text line. -/
def assemble (l : Line) : Option CmdWord := l.toInstr.map encode

/-- The value of one digit of a number written to base `base`. -/
def digitValue (base : Nat) (c : Char) : Option Nat :=
  let d := if '0'.toNat ≤ c.toNat ∧ c.toNat ≤ '9'.toNat then some (c.toNat - '0'.toNat)
    else if 'a'.toNat ≤ c.toNat ∧ c.toNat ≤ 'f'.toNat then some (c.toNat - 'a'.toNat + 10)
    else if 'A'.toNat ≤ c.toNat ∧ c.toNat ≤ 'F'.toNat then some (c.toNat - 'A'.toNat + 10)
    else none
  d.filter fun v => decide (v < base)

/-- A run of digits read onto `acc`, most significant first. -/
def digitsValue (base : Nat) : List Char → Nat → Option Nat
  | [], acc => some acc
  | c :: cs, acc => (digitValue base c).bind fun v => digitsValue base cs (acc * base + v)

/-- R84: a number is decimal or `0x`-prefixed hexadecimal. -/
def parseNumber : List Char → Option Nat
  | [] => none
  | '0' :: 'x' :: c :: cs => digitsValue 16 (c :: cs) 0
  | c :: cs => digitsValue 10 (c :: cs) 0

/-- The words of a text line: the runs of characters between spaces. -/
def lineWords : List Char → List Char → List (List Char)
  | [], [] => []
  | [], cur => [cur]
  | ' ' :: cs, [] => lineWords cs []
  | ' ' :: cs, cur => cur :: lineWords cs []
  | c :: cs, cur => lineWords cs (cur ++ [c])

/-- R84: `sync`, `write <addr> <value>`, `read <addr>`. Log 29. -/
def parseLine (text : List Char) : Option Line :=
  match lineWords text [] with
  | [['s', 'y', 'n', 'c']] => some .sync
  | [['w', 'r', 'i', 't', 'e'], a, v] =>
    (parseNumber a).bind fun addr => (parseNumber v).map fun value => .write addr value
  | [['r', 'e', 'a', 'd'], a] => (parseNumber a).map .read
  | _ => none

end Sys2Proof
end

