-- ==== Sys2Proof/Config.lean ====
section
/-! DEFINITION. What an implementation fixes (the OPEN parameters of 00_scope.md R6) and what the
environment is free to answer. A constant declared `opaque` has no body: nothing in Lean can
evaluate it, so a statement that mentions it holds for every value it could have. -/

namespace Sys2Proof

/-- The bit positions of the four flags in a Sample (R6, R60). OPEN: the spec gives no numbers. -/
structure Pins where
  clock  : Fin 8
  mosi   : Fin 8
  miso   : Fin 8
  strobe : Fin 8
  deriving DecidableEq, Repr, Inhabited

/-- R60: the four positions are four different integers in 0 to 7. -/
abbrev Pins.Valid (p : Pins) : Prop :=
  p.clock ≠ p.mosi ∧ p.clock ≠ p.miso ∧ p.clock ≠ p.strobe ∧
  p.mosi ≠ p.miso ∧ p.mosi ≠ p.strobe ∧ p.miso ≠ p.strobe

/-- The binding `EX1` of R60, the spec's illustration: C = 01, M = 02, I = 04, S = 08. -/
def Pins.ex1 : Pins := { clock := 0, mosi := 1, miso := 2, strobe := 3 }

/-- What the environment does beside answering a transaction. `arrived`: the Samples the adapter
puts into the transport's return buffer meanwhile (R29; how many and which is not settled, D20;
Samples that arrive while the block is idle are those of the next transaction, log 32).
`changes`: registers of the ideal target that change where the rules leave its content unknown
(R148, R109 (g)); read there only. -/
structure EnvMove where
  arrived : List Sample := []
  changes : List (Addr × Value) := []
  deriving DecidableEq, Repr, Inhabited

/-- The environment's answer to the transaction in progress (R13, R28, R141). -/
inductive Answer where
  /-- The transport completes the transaction. -/
  | completes (m : EnvMove)
  /-- The call returns with no error but with fewer Samples than asked for (R28, R142); `count` further
  ones crossed. -/
  | short (count : Nat) (m : EnvMove)
  /-- The transport reports a failure (`io_err`) after `count` further Samples crossed (R128, R141). -/
  | error (count : Nat) (m : EnvMove)
  /-- The transport has not completed the transaction yet (R132). `count` further Samples of a burst
  are driven meanwhile (R133), a number the spec leaves open (U12). Log 31. -/
  | notYet (count : Nat) (m : EnvMove)
  /-- The host asserts `rst` while the transaction runs (R163). `m.arrived` is what the return
  buffer then holds, of which nothing is known (R164). -/
  | rst (m : EnvMove)
  deriving DecidableEq, Repr, Inhabited

/-- FREE VALUE: four positions not yet known to differ (log 1). -/
opaque Config.rawPins : Pins

/-- `P_CLOCK`, `P_MOSI`, `P_MISO`, `P_STROBE` of the block after reset: any binding that R60
allows, and no other. Log 1. -/
def Config.pins : Pins := if Config.rawPins.Valid then Config.rawPins else Pins.ex1

/-- `RESET_LINES` (R6, R33): the line levels after reset, unspecified. Log 5. -/
opaque Config.resetLines : Sample

/-- FREE VALUE: content and depth of the return buffer at reset (R33, R164). Log 8. -/
opaque Config.resetBuffer : List Sample

/-- FREE VALUE: the environment's `n`-th answer where no scripted answer stands (D20). Log 2. -/
opaque Config.answer : Nat → Answer

/-- FREE VALUE: what `rdata` holds where the spec calls it unspecified (R21, R107, R118, R128).
Log 6. -/
opaque Config.freeRdata : Nat → Value

/-- `SAMPLE_RATE` (R6, R179): Samples per second; no rule depends on it. Log 24. -/
opaque Config.sampleRate : Nat

/-- `PIN_DIR_OTHER` (R6, R34): direction bits of the four lines the protocol does not use,
1 for an output. Logs 27, 33. -/
opaque Config.pinDirOther : BitVec 8

/-- The addresses of the four well-known registers (R47, R85, N5): not in the source. Log 28. -/
opaque Config.versionAddr : Addr
opaque Config.modeAddr : Addr
opaque Config.muxSelectAddr : Addr
opaque Config.dipSwitchAddr : Addr

end Sys2Proof
end

