-- ==== Sys2Proof/Machine/State.lean ====
section
/-! DEFINITION. The state (10_state.md), as plain data, and its reset values (R33). -/

namespace Sys2Proof.Machine

/-- The sequencer's position (R14, R121): the next transport transaction. -/
inductive Phase where
  | idle | syPurge | syW1 | syW2 | wrW1 | wrW2 | rdW1 | rdDiscard | rdPulse | rdFetch
  deriving DecidableEq, Repr

/-- The completion code of an operation (R20, R139). -/
inductive Status where
  | ok | transportUnavailable | transportIoError | protocolDesyncSuspected | illegalCommand
  deriving DecidableEq, Repr

/-- The ghost `link_phase` (R22). -/
inductive LinkPhase where
  | unknown | synced
  deriving DecidableEq, Repr

/-- One transport transaction (R9). -/
inductive Transaction where
  | purge
  | emit (burst : List Sample)
  | fetch (count : Nat)
  deriving DecidableEq, Repr

/-- One event of the trace (R10); the three failed forms are those 95_test_vectors.md prints as
`P(error)`, `W(… : error)`, `Rd(n: error)` (log 11, DEDUCED). -/
inductive Event where
  | purge
  | write (burst : List Sample)
  | read (count : Nat) (bytes : List Sample)
  | purgeError
  | writeError (burst : List Sample)
  | readError (count : Nat)
  deriving DecidableEq, Repr

/-- What the host sees at one `done` (R137). -/
structure Result where
  status : Status
  rdata  : Value
  deriving DecidableEq, Repr

/-- What the host does next while the block is idle (R181). -/
inductive HostMove where
  /-- It presents a command word. -/
  | command (w : CmdWord)
  /-- It presents nothing. -/
  | nothing
  /-- It asserts `rst`; `m` is the environment's part, as in `Answer.rst`. -/
  | rst (m : EnvMove)
  deriving DecidableEq, Repr

/-- The target's register space (R37): (address, value) pairs, addresses strictly rising and below
256, no value equal to what an unlisted address reads as. Its unit is the 32-bit register. -/
abbrev Memory := List (Nat × Value)

/-- The block, its observation, its parameter, and the inputs it meets. -/
@[ext]
structure State where
  /-- R14. -/
  phase : Phase
  /-- R15. -/
  addrQ : Addr
  /-- R16. -/
  valueQ : Value
  /-- R17. -/
  acc : Value
  /-- R18. -/
  bitcnt : BitVec 6
  /-- R20. -/
  status : Status
  /-- R21. -/
  rdata : Value
  /-- R22. -/
  linkPhase : LinkPhase
  /-- R23. -/
  lineOut : Sample
  /-- R133: how many Samples of the burst in progress have been driven; 0 while there is none. Log 31. -/
  driven : Nat
  /-- The `done` pulse (R26, R129): an operation has ended in the step that led here. -/
  done : Bool
  /-- R10: the transactions performed, first to last. -/
  trace : List Event
  /-- R137: one entry per `done`, first to last. -/
  results : List Result
  /-- R6: the pin binding, a parameter; no step writes it. -/
  pins : Pins
  /-- R29: the transport's return buffer, head first. -/
  retBuf : List Sample
  /-- R40: the ideal target, if one is attached. -/
  target : Option Memory
  /-- The environment's coming answers (D20); `Config.answer` answers when none is left. -/
  answers : List Answer
  /-- The host's coming moves (R137, R181). -/
  host : List HostMove
  /-- How many answers have been taken: the index of the free values. -/
  draws : Nat
  deriving DecidableEq, Repr

/-- Why the machine would stop with a fault. No constructor: a fault of this block (R139) ends an
operation and leaves the block idle (R146); nothing the spec describes stops the machine. Safe.
Log 16. -/
inductive Fault where
  deriving DecidableEq, Repr

/-- Why an operation would have no meaning. -/
inductive Refusal where
  /-- Raised by an arm of `exec` whose operation has no meaning yet; no arm is such. Safe. -/
  | notModelled (mnemonic : String)
  deriving DecidableEq, Repr

/-- The machine right after reset (R33, R161). The registers the spec leaves unspecified hold the
values log 4 names; `lineOut`, `retBuf` and `pins` hold constants without a body. -/
def State.reset : State where
  phase := .idle
  addrQ := 0
  valueQ := 0
  acc := 0
  bitcnt := 0
  status := .ok
  rdata := 0
  linkPhase := .unknown
  lineOut := Config.resetLines
  driven := 0
  done := false
  trace := []
  results := []
  pins := Config.pins
  retBuf := Config.resetBuffer
  target := none
  answers := []
  host := []
  draws := 0

end Sys2Proof.Machine
end

