-- ==== Sys2Proof/Machine/Flags.lean ====
section
/-! DEFINITION. Flags of a Sample (00_scope.md R8, 30_encoding.md R59 to R64), the received bit
(R113), the accumulate step (R116) and the numbers of the completion codes (R139). -/

namespace Sys2Proof.Machine

/-- The mask with bit `i` set (R8). -/
def flagMask (i : Fin 8) : Sample := 1#8 <<< i.val

/-- `CLOCK` (R8). -/
def clockFlag (p : Pins) : Sample := flagMask p.clock
/-- `MOSI` (R8). -/
def mosiFlag (p : Pins) : Sample := flagMask p.mosi
/-- `MISO` (R8). -/
def misoFlag (p : Pins) : Sample := flagMask p.miso
/-- `STROBE` (R8). -/
def strobeFlag (p : Pins) : Sample := flagMask p.strobe

/-- A flag is asserted in a Sample when its bit is 1 (R8). -/
def asserted (flag x : Sample) : Bool := decide (x &&& flag ≠ 0)

/-- `x` with a flag set or cleared. -/
def withFlag (flag : Sample) (b : Bool) (x : Sample) : Sample :=
  if b then x ||| flag else x &&& ~~~flag

/-! The eight Samples the block emits (R64). -/

def B1H (p : Pins) : Sample := strobeFlag p ||| clockFlag p ||| mosiFlag p
def B1L (p : Pins) : Sample := strobeFlag p ||| mosiFlag p
def B0H (p : Pins) : Sample := strobeFlag p ||| clockFlag p
def B0L (p : Pins) : Sample := strobeFlag p
def TCH (p : Pins) : Sample := clockFlag p ||| mosiFlag p
def TCL (p : Pins) : Sample := mosiFlag p
def TRH (p : Pins) : Sample := clockFlag p
def TRL (_ : Pins) : Sample := 0

/-- R64: the emitted alphabet. The MISO bit and the unused bits are 0 (D2; log 22). -/
def alphabet (p : Pins) : List Sample :=
  [B1H p, B1L p, B0H p, B0L p, TCH p, TCL p, TRH p, TRL p]

/-- R113: the received bit is bit `P_MISO` of the second fetched Sample of a pair. The list has two
elements wherever the sequencer calls this (`State.complete` hands over exactly the Samples
fetched). -/
def receivedBit (p : Pins) (fetched : List Sample) : Bool :=
  (fetched.getD 1 0).getLsbD p.miso

/-- R116: `acc <- (acc << 1) | bit`. -/
def accumulate (acc : Value) (bit : Bool) : Value := (acc <<< 1) ||| (if bit then 1 else 0)

/-- R139, R20: the number of a completion code. -/
def statusCode : Status → BitVec 3
  | .ok => 0
  | .transportUnavailable => 1
  | .transportIoError => 2
  | .protocolDesyncSuspected => 3
  | .illegalCommand => 4

/-- R22: the bit of `link_phase`. -/
def linkPhaseBit : LinkPhase → Bool
  | .unknown => false
  | .synced => true

/-- R34: the lines that must be outputs. -/
def outputLines (p : Pins) : BitVec 8 := clockFlag p ||| mosiFlag p ||| strobeFlag p

/-- R34: a direction mask the host may pass to `set_bit_mode`: CLOCK, MOSI and STROBE outputs, MISO an
input. PRESUMED: a mask bit of 1 means output, which the spec does not say. Log 33. -/
def legalPinMask (p : Pins) (mask : BitVec 8) : Bool :=
  decide (mask &&& outputLines p = outputLines p) && decide (mask &&& misoFlag p = 0)

/-- R34: the direction mask with `PIN_DIR_OTHER` on the four lines the protocol does not use,
a bit of 1 meaning output (PRESUMED). Logs 27, 33. -/
def pinMask (p : Pins) : BitVec 8 :=
  outputLines p ||| (Config.pinDirOther &&& ~~~(outputLines p ||| misoFlag p))

end Sys2Proof.Machine
end

