-- ==== Sys2Proof/Machine/Operands.lean ====
section
/-! DEFINITION. From operands to Samples: the bit-frame encoder (40_bitframe_encoder.md), trailers
and bursts (30_encoding.md R65 to R71), the burst of a phase (44_sequencer.md R126) and the
protocol's constants (00_scope.md R6), each named once (D26; log 23, UNVERIFIED). The spec's own
choices D7 and D8 shape SYNC's first burst (log 30). -/

namespace Sys2Proof.Machine

/-- `SYNC_DUMMY_BITS` (R6). -/
def syncDummyBits : Nat := 32
/-- `SENTINEL_ADDR` (R6, R47). -/
def sentinelAddr : Addr := 0xFE
/-- `DISCARD_N` (R6). -/
def discardN : Nat := 1
/-- `PULSE_FETCH_N` (R6). -/
def pulseFetchN : Nat := 2
/-- `ADDR_W` (R6). -/
def addrW : Nat := 8
/-- `DATA_W` (R6): bits of a value, and round-trips of a READ (R112). -/
def dataW : Nat := 32

/-- R65: the two Samples that carry one logical bit. -/
def bitPair (p : Pins) (b : Bool) : List Sample :=
  let m := if b then mosiFlag p else 0
  [strobeFlag p ||| clockFlag p ||| m, strobeFlag p ||| m]

/-- R88: the loop of `encode_bits`, for `i` from 0 to `width - 1`. -/
def bitFrame (p : Pins) (value width : Nat) : List Sample :=
  (List.range width).flatMap fun i => bitPair p (value.testBit (width - 1 - i))

/-- R87, R90: `encode_bits(value, width)`; no value for a width above 32 (D10; log 26). -/
def encodeBits (p : Pins) (value width : Nat) : Option (List Sample) :=
  if widthOk width then some (bitFrame p value width) else none

/-- R77, R93: the value a BitFrame carries, read from the MOSI flag of every even-indexed Sample. -/
def decodeFrame (p : Pins) (frame : List Sample) (width : Nat) : Nat :=
  ((List.range width).map fun i =>
    if asserted (mosiFlag p) (frame.getD (2 * i) 0) then 2 ^ (width - 1 - i) else 0).sum

/-- R96: the output of the serialiser at Sample slot `k`: bit index `k / 2`, half-period `k % 2`. -/
def serialiserSlot (p : Pins) (operand width k : Nat) : Sample :=
  strobeFlag p ||| (if k % 2 = 0 then clockFlag p else 0) |||
    (if operand.testBit (width - 1 - k / 2) then mosiFlag p else 0)

/-- R68: the commit trailer of SYNC and WRITE. -/
def commitTrailer (p : Pins) : List Sample := [mosiFlag p ||| clockFlag p, mosiFlag p]

/-- R68: the read-request trailer of READ. -/
def readTrailer (p : Pins) : List Sample := [clockFlag p, 0]

/-- R69: the framing pair of SYNC. -/
def framingPair (p : Pins) : List Sample := [strobeFlag p ||| clockFlag p ||| mosiFlag p, strobeFlag p ||| mosiFlag p]

/-- R71 `SY1`. -/
def burstSY1 (p : Pins) : List Sample := bitFrame p 0 syncDummyBits ++ framingPair p

/-- R71 `SY2`. -/
def burstSY2 (p : Pins) : List Sample := bitFrame p sentinelAddr.toNat addrW ++ commitTrailer p

/-- R71 `WR1`. -/
def burstWR1 (p : Pins) (v : Value) : List Sample := bitFrame p v.toNat dataW

/-- R71 `WR2`. -/
def burstWR2 (p : Pins) (a : Addr) : List Sample := bitFrame p a.toNat addrW ++ commitTrailer p

/-- R71 `RD1`. -/
def burstRD1 (p : Pins) (a : Addr) : List Sample := bitFrame p a.toNat addrW ++ readTrailer p

/-- R70, R71 `RDP`: the sampling pulse. -/
def burstRDP (p : Pins) : List Sample := [strobeFlag p ||| clockFlag p, strobeFlag p]

/-- R121, R126: the transaction of a phase, a function of the phase and the operand latches. -/
def transactionOf (p : Pins) (a : Addr) (v : Value) : Phase → Option Transaction
  | .idle => none
  | .syPurge => some .purge
  | .syW1 => some (.emit (burstSY1 p))
  | .syW2 => some (.emit (burstSY2 p))
  | .wrW1 => some (.emit (burstWR1 p v))
  | .wrW2 => some (.emit (burstWR2 p a))
  | .rdW1 => some (.emit (burstRD1 p a))
  | .rdDiscard => some (.fetch discardN)
  | .rdPulse => some (.emit (burstRDP p))
  | .rdFetch => some (.fetch pulseFetchN)

end Sys2Proof.Machine
end

