-- ==== Sys2Proof/Machine/Ops.lean ====
section
/-! DEFINITION. The shared operations: the target's register space (20_memory.md R37, R40), one
transport transaction with its success (44_sequencer.md R125) and its failure (R128), the end of an
operation (R129), fault entry (60_exceptions.md R146), reset (70_reset_and_hazards.md R161, R163),
acceptance (R122) and the run of an operation's transactions. -/

namespace Sys2Proof.Machine

/-! ### The target's register space -/

/-- What an unlisted register reads as. The target is an input whoever attaches it supplies, and
every map of 256 values has exactly one list. Log 9. -/
def Memory.unlisted : Value := 0

/-- The value of register `a`. -/
def Memory.readAt : Memory → Nat → Value
  | [], _ => Memory.unlisted
  | (b, w) :: m, a => if a = b then w else Memory.readAt m a

/-- One cell, or none where it would hold what an unlisted register reads as. -/
def Memory.cell (a : Nat) (v : Value) : Memory := if v = Memory.unlisted then [] else [(a, v)]

/-- Register `a` set to `v`, in the canonical form. -/
def Memory.writeAt : Memory → Nat → Value → Memory
  | [], a, v => Memory.cell a v
  | (b, w) :: m, a, v =>
    if a < b then Memory.cell a v ++ (b, w) :: m
    else if a = b then Memory.cell a v ++ m
    else (b, w) :: Memory.writeAt m a v

/-- `MemRead(addr, 4)` (R9, R40). -/
def Memory.read (m : Memory) (a : Addr) : Value := Memory.readAt m a.toNat

/-- `MemWrite(addr, 4, v)` (R9, R40). -/
def Memory.write (m : Memory) (a : Addr) (v : Value) : Memory := Memory.writeAt m a.toNat v

/-- Several registers changed, in order. -/
def Memory.writeAll (m : Memory) (cs : List (Addr × Value)) : Memory :=
  cs.foldl (fun m c => Memory.write m c.1 c.2) m

/-- The canonical form: addresses strictly rising and below 256, no value equal to what an unlisted
register reads as. -/
abbrev Memory.Wf (m : Memory) : Prop :=
  m.Pairwise (fun x y => x.1 < y.1) ∧ ∀ c ∈ m, c.1 < 256 ∧ c.2 ≠ Memory.unlisted

/-- `Memory.Wf` as a Bool. -/
def Memory.wf (m : Memory) : Bool := decide (Memory.Wf m)

/-! ### Ports and the transaction in progress -/

/-- R19: `busy = (phase != IDLE)`. -/
def State.busy (s : State) : Bool := decide (s.phase ≠ .idle)

/-- R26: `cmd_ready = !busy`. -/
def State.cmdReady (s : State) : Bool := !s.busy

/-- R121: the transaction the present phase performs. -/
def State.transaction (s : State) : Option Transaction := transactionOf s.pins s.addrQ s.valueQ s.phase

/-- The environment's answer to it: the next scripted one, else a free value (D20). Log 2. -/
def State.nextAnswer (s : State) : Answer :=
  match s.answers with
  | a :: _ => a
  | [] => Config.answer s.draws

/-- The answer is taken; a new step begins, so `done` falls (R26: a one-cycle pulse). -/
def State.takeAnswer (s : State) : State :=
  { s with answers := s.answers.tail, draws := s.draws + 1, done := false }

/-- R10: the transaction is over and is appended to the trace; of the next burst nothing has been
driven (R133). -/
def State.record (s : State) (e : Event) : State := { s with trace := s.trace ++ [e], driven := 0 }

/-- R133: the Samples of a burst replace `line_out` one after another; the last one stays. -/
def State.driveLines (s : State) (samples : List Sample) : State :=
  { s with lineOut := samples.getLast?.getD s.lineOut }

/-- R23, R133: `count` further Samples of a burst are driven, in list order, from the first one not yet
driven on; those driven before stay driven. -/
def State.driveFurther (s : State) (burst : List Sample) (count : Nat) : State :=
  let further := (burst.drop s.driven).take count
  { s.driveLines further with driven := s.driven + further.length }

/-- The return buffer's new content (R29). -/
def State.withBuffer (s : State) (samples : List Sample) : State := { s with retBuf := samples }

/-- The sequencer moves to a phase (R9). -/
def State.goto (s : State) (p : Phase) : State := { s with phase := p }

/-- The ghost `link_phase` is set (R22). -/
def State.setLink (s : State) (l : LinkPhase) : State := { s with linkPhase := l }

/-- The accumulator and the count of round-trips are set (R17, R18). -/
def State.setCount (s : State) (acc : Value) (n : BitVec 6) : State := { s with acc := acc, bitcnt := n }

/-- The result register is set (R21). -/
def State.setRdata (s : State) (v : Value) : State := { s with rdata := v }

/-- The operand latches are set (R15, R16). -/
def State.latch (s : State) (a : Addr) (v : Value) : State := { s with addrQ := a, valueQ := v }

/-- R159: an idle cycle with no command presented; `done` falls (log 25, DEDUCED). DESIGN CHOICE: no
Sample is put into the return buffer here; one that arrives meanwhile is among those of the next
transaction. Log 32. -/
def State.idleCycle (s : State) : State := { s with done := false }

/-! ### The end of an operation, faults, reset -/

/-- R129: the operation ends; `done` pulses with its completion code. -/
def State.endOperation (s : State) (code : Status) : State :=
  { s with phase := .idle, status := code, done := true, results := s.results ++ [⟨code, s.rdata⟩] }

/-- R21, U4: `rdata` becomes unspecified, a free value. Log 6. -/
def State.rdataUnspecified (s : State) : State := s.setRdata (Config.freeRdata s.draws)

/-- R148, U14: registers of the ideal target change in a way the rules leave open. Log 10. -/
def State.disturbTarget (s : State) (m : EnvMove) : State :=
  { s with target := s.target.map fun t => Memory.writeAll t m.changes }

/-- R146, R128: fault entry. Nothing is saved; `addr_q`, `value_q`, `acc`, `bitcnt` keep what they
held; the block is idle again. -/
def State.raiseIoError (s : State) (m : EnvMove) : State :=
  ((s.setLink .unknown).rdataUnspecified.disturbTarget m).endOperation .transportIoError

/-- R161, R163: `rst`. The block takes its reset values and performs no transaction; what the
environment holds afterwards is the move's (R164). The parameter and the coming inputs stay.
Log 12. -/
def State.applyReset (s : State) (m : EnvMove) : State :=
  { State.reset with
    pins := s.pins
    retBuf := m.arrived
    target := (s.disturbTarget m).target
    answers := s.answers
    host := s.host
    draws := s.draws }

/-! ### One transaction -/

/-- R40: in a READ that started with `link_phase = SYNCED` the ideal target answers round-trip `i`
with bit `31 - i` of the register in the MISO flag of the second Sample; every other bit is the
environment's. With no target attached nothing is changed. -/
def State.answeredByTarget (s : State) (fetched : List Sample) : List Sample :=
  match s.target, s.linkPhase, s.phase, fetched with
  | some t, .synced, .rdFetch, [r0, r1] =>
    [r0, withFlag (misoFlag s.pins) ((Memory.read t s.addrQ).getLsbD (31 - s.bitcnt.toNat)) r1]
  | _, _, _, _ => fetched

/-- R107, R40: what a completed WRITE does to the ideal target. While `link_phase = UNKNOWN` the
effect is unknown (R109 (g), U15). Log 10. -/
def State.commitToTarget (s : State) (m : EnvMove) : State :=
  match s.linkPhase with
  | .synced => { s with target := s.target.map fun t => Memory.write t s.addrQ s.valueQ }
  | .unknown => s.disturbTarget m

/-- R125, row `RD_FETCH`: accumulate one bit, count the round-trip, and end the READ after the
32nd. A count above 31 before the step is never reached; log 21 (DEDUCED) says what it does. -/
def State.afterRoundTrip (s : State) (fetched : List Sample) : State :=
  let acc := accumulate s.acc (receivedBit s.pins fetched)
  let bitcnt := s.bitcnt + 1
  if bitcnt.toNat < dataW then (s.setCount acc bitcnt).goto .rdPulse
  else ((s.setCount acc bitcnt).setRdata acc).endOperation .ok

/-- R125: the register updates and the next phase after a transaction that succeeded. -/
def State.advance (s : State) (fetched : List Sample) (m : EnvMove) : State :=
  match s.phase with
  | .idle => s
  | .syPurge => s.goto .syW1
  | .syW1 => s.goto .syW2
  | .syW2 => (s.setLink .synced).rdataUnspecified.endOperation .ok
  | .wrW1 => s.goto .wrW2
  | .wrW2 => (s.commitToTarget m).rdataUnspecified.endOperation .ok
  | .rdW1 => s.goto .rdDiscard
  | .rdDiscard => (s.setCount 0 0).goto .rdPulse
  | .rdPulse => s.goto .rdFetch
  | .rdFetch => s.afterRoundTrip fetched

/-- The environment's part of a failed transaction (R128): of a burst, `count` further Samples reached
the bus, after those driven already (R133); of a fetch, some number below `n` of Samples left the return
buffer; of a purge, some number was dropped. Log 17. DESIGN CHOICE: a failed purge has dropped the
oldest Samples, from the head of the buffer; the spec does not say which. Log 35. -/
def State.partialEffect (s : State) (t : Transaction) (count : Nat) (m : EnvMove) : State :=
  match t with
  | .purge => (s.withBuffer ((s.retBuf ++ m.arrived).drop count)).record .purgeError
  | .emit burst =>
    ((s.withBuffer (s.retBuf ++ m.arrived)).driveFurther burst count).record (.writeError burst)
  | .fetch n => (s.withBuffer ((s.retBuf ++ m.arrived).drop (min count (n - 1)))).record (.readError n)

/-- R128: a transaction that failed, and fault entry. -/
def State.failTransaction (s : State) (t : Transaction) (count : Nat) (m : EnvMove) : State :=
  (s.partialEffect t count m).raiseIoError m

/-- R125, R29: a transaction the transport completes. A purge empties the return buffer; a fetch
takes Samples from its head, and one that finds fewer than it asked for is a failed transaction
(R142). Log 8. DESIGN CHOICE: such a fetch has taken all the Samples there are, one of the numbers below
`n` that R128 leaves open; the answers `error` and `short` give every other one. Log 34. -/
def State.complete (s : State) (t : Transaction) (m : EnvMove) : State :=
  match t with
  | .purge => ((s.withBuffer []).record .purge).advance [] m
  | .emit burst =>
    (((s.withBuffer (s.retBuf ++ m.arrived)).driveLines burst).record (.write burst)).advance [] m
  | .fetch n =>
    if (s.retBuf ++ m.arrived).length < n then s.failTransaction t (s.retBuf ++ m.arrived).length m
    else
      let fetched := s.answeredByTarget ((s.retBuf ++ m.arrived).take n)
      ((s.withBuffer ((s.retBuf ++ m.arrived).drop n)).record (.read n fetched)).advance fetched m

/-- R142, D15: the largest number of further Samples that is short for a transaction of which `driven`
Samples are driven. Log 17. -/
def Transaction.shortCount (driven : Nat) : Transaction → Nat
  | .purge => 0
  | .emit burst => burst.length - 1 - driven
  | .fetch n => n - 1

/-- The Samples a transaction drives onto the lines. -/
def Transaction.samples : Transaction → List Sample
  | .purge => []
  | .emit burst => burst
  | .fetch _ => []

/-- R132: the transport has not completed the transaction. The block stays where it is; the Samples of
a burst go on being driven in list order (R133), `count` more of them by the environment's answer, and
Samples may arrive (R29). Log 31. -/
def State.keepWaiting (s : State) (t : Transaction) (count : Nat) (m : EnvMove) : State :=
  (s.withBuffer (s.retBuf ++ m.arrived)).driveFurther t.samples count

/-- R124: one step of the running operation, one transport transaction with the environment's answer
to it; where the transport has not completed it, a step in which the block waits (R132). -/
def State.transact (s : State) : State :=
  match s.transaction with
  | none => s
  | some t =>
    match s.nextAnswer with
    | .completes m => s.takeAnswer.complete t m
    | .short count m => s.takeAnswer.failTransaction t (min count (t.shortCount s.driven)) m
    | .error count m => s.takeAnswer.failTransaction t count m
    | .notYet count m => s.takeAnswer.keepWaiting t count m
    | .rst m => s.takeAnswer.applyReset m

/-! ### Commands -/

/-- R122: acceptance latches both operand fields and starts the operation's first phase, of which
nothing has been driven. -/
def State.accept (s : State) (first : Phase) (a : Addr) (v : Value) : State :=
  { ((s.latch a v).goto first).idleCycle with driven := 0 }

/-- R122: the block right after it has accepted an operation; no transaction is performed. -/
def State.accepted (s : State) : Instr → State
  | .sync a v => s.accept .syPurge a v
  | .write a v => s.accept .wrW1 a v
  | .read a v => s.accept .rdW1 a v

/-- The environment's next answer keeps the block waiting. -/
def State.toldNotYet (s : State) : Bool :=
  match s.nextAnswer with
  | .notYet _ _ => true
  | _ => false

/-- The transactions of the running operation, one after another (R49), until the operation ends,
the transport keeps the block waiting, or `n` of them are done. Log 3. -/
def State.runOperation : Nat → State → State
  | 0, s => s
  | n + 1, s =>
    if s.busy then
      if s.toldNotYet then s.transact else State.runOperation n s.transact
    else s

/-- The big-step form of an operation (R131): accepted when idle (R122), and its `n` transactions run.
To a busy block the command is not presented and nothing changes (R123). Logs 3, 14. -/
def State.perform (s : State) (first : Phase) (n : Nat) (a : Addr) (v : Value) : State :=
  if s.busy then s else State.runOperation n (s.accept first a v)

/-- R81, R122, R136: the reserved word is accepted and completed at once, with no transaction.
Log 19. -/
def State.rejectCommand (s : State) (w : CmdWord) : State :=
  (s.latch (addrField w) (valueField w)).endOperation .illegalCommand

/-- The host's move is taken. -/
def State.takeMove (s : State) : State := { s with host := s.host.tail }

/-- The host presents a word next, to a block that is idle. -/
def State.present (s : State) (w : CmdWord) : State :=
  { s.goto .idle with host := .command w :: s.host }

end Sys2Proof.Machine
end

