-- ==== Sys2Proof/Machine/Read.lean ====
section
/-! DEFINITION. READ (43_read.md R112). -/

namespace Sys2Proof.Machine

/-- READ: burst RD1, the discard-read, then 32 round-trips of a sampling pulse and a fetch (R112),
66 transactions (R57). The value field is latched and not read (R80, R117). -/
def execRead (a : Addr) (v : Value) (s : State) : Host.Outcome State Fault Refusal :=
  .next (s.perform .rdW1 (2 + 2 * dataW) a v)

end Sys2Proof.Machine
end

