-- ==== Sys2Proof/Machine/Sync.lean ====
section
/-! DEFINITION. SYNC (41_sync.md R99). -/

namespace Sys2Proof.Machine

/-- SYNC: purge, burst SY1, burst SY2 (R99), 3 transactions (R57). Its fields are latched and not
read (R80, R101). -/
def execSync (a : Addr) (v : Value) (s : State) : Host.Outcome State Fault Refusal :=
  .next (s.perform .syPurge 3 a v)

end Sys2Proof.Machine
end

