-- ==== Sys2Proof/Machine/Write.lean ====
section
/-! DEFINITION. WRITE (42_write.md R106). -/

namespace Sys2Proof.Machine

/-- WRITE: burst WR1, burst WR2 (R106), 2 transactions (R57). -/
def execWrite (a : Addr) (v : Value) (s : State) : Host.Outcome State Fault Refusal :=
  .next (s.perform .wrW1 2 a v)

end Sys2Proof.Machine
end

