-- ==== Sys2Proof/Machine/Dispatch.lean ====
section
/-! DEFINITION. One arm per operation: the call of its meaning. -/

namespace Sys2Proof.Machine

/-- The meaning of an operation presented to the block. -/
def exec (i : Instr) (s : State) : Host.Outcome State Fault Refusal :=
  match i with
  | .sync a v => Sys2Proof.Machine.execSync a v s
  | .write a v => Sys2Proof.Machine.execWrite a v s
  | .read a v => Sys2Proof.Machine.execRead a v s

end Sys2Proof.Machine
end

