-- ==== Sys2Proof/Machine/HostProgram.lean ====
section
/-! DEFINITION. Programs of the host: R137's list of commands, and the pseudo-operations of R85. -/

namespace Sys2Proof.Machine

/-- R137: the host presents the commands in order. -/
def hostProgram (is : List Instr) : List HostMove := is.map fun i => .command (encode i)

/-- R85 (a): four READs, in the order version, mode, mux-select, DIP-switch. -/
def dumpOps : List Instr :=
  [.read Config.versionAddr 0, .read Config.modeAddr 0, .read Config.muxSelectAddr 0, .read Config.dipSwitchAddr 0]

/-- R85 (b): the command line's `-d`. -/
def dashD : List Instr := .sync 0 0 :: dumpOps

/-- R85 (c): the command line's `-w`. -/
def dashW (pairs : List (Addr × Value)) : List Instr :=
  .sync 0 0 :: pairs.flatMap fun x => .write x.1 x.2 :: dumpOps

end Sys2Proof.Machine
end

