-- ==== Sys2Proof/Machine/Step.lean ====
section
/-! DEFINITION. The step (44_sequencer.md): while an operation runs, its next transaction and nothing
more (R124); while idle, the host's next move: the acceptance of a command, which performs no
transaction (R122), nothing (R159), or `rst` (R161). An operation run whole is `exec`, and running the
steps gives exactly that (R131). Log 3. -/

namespace Sys2Proof.Machine

/-- One step of the machine. -/
def step (s : State) : Host.Outcome State Fault Refusal :=
  if s.busy then .next s.transact
  else
    match s.host with
    | [] => .next s.idleCycle
    | .nothing :: _ => .next s.takeMove.idleCycle
    | .rst m :: _ => .next (s.takeMove.applyReset m)
    | .command w :: _ =>
      match decode w with
      | .ok i => .next (s.takeMove.accepted i)
      | .error .reservedOp => .next (s.takeMove.rejectCommand w)

/-- The word presented as the host's next command to the idle block: the next step accepts it. Log 7. -/
def State.withFetchWord (s : State) (nbits w : Nat) : State :=
  s.present (BitVec.ofNat 42 (w % 2 ^ nbits))

end Sys2Proof.Machine
end

