-- ==== Sys2Proof/Machine/Ports.lean ====
section
/-! DEFINITION. The ports of 10_state.md R26 as functions of the state, at the level of transactions:
what the block drives on them while its present transaction runs, and what the host reads. No step
reads them. The handshakes of single Samples are left out (log 20). -/

namespace Sys2Proof.Machine

/-- `tx_valid`: the block sends the Samples of an `Emit`. -/
def State.txValid (s : State) : Bool :=
  match s.transaction with
  | some (.emit _) => true
  | _ => false

/-- `tx_sample` and `tx_last`, Sample by Sample: `tx_last` marks the last Sample of the burst. -/
def State.txStream (s : State) : List (Sample × Bool) :=
  match s.transaction with
  | some (.emit burst) => burst.zipIdx.map fun x => (x.1, decide (x.2 + 1 = burst.length))
  | _ => []

/-- `rx_req`: the block requests a `Fetch`. -/
def State.rxReq (s : State) : Bool :=
  match s.transaction with
  | some (.fetch _) => true
  | _ => false

/-- `rx_n`: how many Samples it requests. -/
def State.rxN (s : State) : BitVec 2 :=
  match s.transaction with
  | some (.fetch n) => BitVec.ofNat 2 n
  | _ => 0

/-- `purge_req`: the block requests a `Purge`. -/
def State.purgeReq (s : State) : Bool :=
  match s.transaction with
  | some .purge => true
  | _ => false

/-- `io_err`, an input: the transport reports a failure of the transaction in progress. -/
def Answer.ioErr : Answer → Bool
  | .error _ _ => true
  | _ => false

/-- The `status` port (R20). -/
def State.statusPort (s : State) : BitVec 3 := statusCode s.status

/-- The bits `cmd_ready`, `done`, `status`, `rdata` the host reads. -/
def State.hostView (s : State) : Bool × Bool × BitVec 3 × Value := (s.cmdReady, s.done, s.statusPort, s.rdata)

/-- R133: the lines when `k` further Samples of the burst in progress have been driven. -/
def State.linesDuring (s : State) (k : Nat) : Sample :=
  match s.transaction with
  | some t => (s.driveFurther t.samples k).lineOut
  | none => s.lineOut

end Sys2Proof.Machine
end

