-- ==== Sys2Proof/Safety.lean ====
section
/-! DEFINITION. The terms claims are made in: the invariant of the machine, a transaction that
fails, a step that resets, runs of steps, and the premise under which the spec lets a READ or a WRITE be
trusted. -/

namespace Sys2Proof.Machine

/-- R71: the six shapes of a burst. -/
abbrev IsBurst (p : Pins) (l : List Sample) : Prop :=
  l = burstSY1 p ∨ l = burstSY2 p ∨ (∃ v, l = burstWR1 p v) ∨ (∃ a, l = burstWR2 p a) ∨
  (∃ a, l = burstRD1 p a) ∨ l = burstRDP p

/-- An event the block may leave in its trace: bursts of the six shapes, fetches of 1 or 2 Samples
that returned as many as they asked for (R9, R28, R71). -/
def Event.Legal (p : Pins) : Event → Prop
  | .purge => True
  | .purgeError => True
  | .write l => IsBurst p l
  | .writeError l => IsBurst p l
  | .read n bytes => (n = 1 ∨ n = 2) ∧ bytes.length = n
  | .readError n => n = 1 ∨ n = 2

/-- R20, R139: the codes the block itself produces. -/
abbrev Status.Produced (c : Status) : Prop := c = .ok ∨ c = .transportIoError ∨ c = .illegalCommand

/-- The invariant of the machine: R60 (pins), R18, R116 and R127 (the read loop), R20 (codes), R64
and R23 (the lines; their level after reset is log 5's), R133 (a burst in progress), R71 (the trace), R129 (the last `done`), and the canonical form of the ideal
target. -/
structure State.Inv (s : State) : Prop where
  pinsValid : s.pins.Valid
  bitcntRange : s.bitcnt.toNat ≤ 32
  readLoop : s.phase = .rdPulse ∨ s.phase = .rdFetch → s.bitcnt.toNat < 32 ∧ s.acc.toNat < 2 ^ s.bitcnt.toNat
  statusProduced : s.status.Produced
  resultsProduced : ∀ r ∈ s.results, r.status.Produced
  lines : s.lineOut = Config.resetLines ∨ s.lineOut ∈ alphabet s.pins
  inOrder : s.driven = 0 ∨ ∃ burst, s.transaction = some (.emit burst) ∧ s.driven ≤ burst.length ∧
    s.lineOut = burst.getD (s.driven - 1) 0
  traceLegal : ∀ e ∈ s.trace, e.Legal s.pins
  doneIdle : s.done = true → s.phase = .idle ∧ s.results.getLast? = some ⟨s.status, s.rdata⟩
  targetWf : ∀ t ∈ s.target, Memory.Wf t

/-- R141, R142: the environment's next answer makes the transaction in progress fail. -/
def State.Failing (s : State) : Prop :=
  match s.transaction, s.nextAnswer with
  | some _, .error _ _ => True
  | some _, .short _ _ => True
  | some (.fetch n), .completes m => (s.retBuf ++ m.arrived).length < n
  | _, _ => False

/-- The event a failed transaction leaves in the trace. -/
def Transaction.failedEvent : Transaction → Event
  | .purge => .purgeError
  | .emit burst => .writeError burst
  | .fetch n => .readError n

/-- `k` steps, stopping at the first fault or refusal. -/
def runSteps : Nat → State → Host.Outcome State Fault Refusal
  | 0, s => .next s
  | k + 1, s =>
    match step s with
    | .next t => runSteps k t
    | .fault r => .fault r
    | .refused r => .refused r

/-- `rst` is asserted in this step: during a transaction (R163) or while idle (R161). -/
def State.Resetting (s : State) : Prop :=
  (s.busy = true ∧ ∃ m, s.nextAnswer = .rst m) ∨ (s.busy = false ∧ ∃ m rest, s.host = .rst m :: rest)

/-- The environment's answer number `j` from here: the script's, else a free value. -/
def State.answerAt (s : State) (j : Nat) : Answer := s.answers.getD j (Config.answer (s.draws + j))

/-- R121, R127: the phase of a READ after `k` completed transactions, for `k` below 66. -/
def readPhase (k : Nat) : Phase :=
  if k = 0 then .rdW1 else if k = 1 then .rdDiscard else if k % 2 = 0 then .rdPulse else .rdFetch

/-- R22, R182 (b): the premise under which a READ's result and a WRITE's effect are trusted. -/
def State.Trusted (s : State) : Prop := s.phase = .idle ∧ s.linkPhase = .synced

/-- Every one of the 33 fetches of a READ (the answers at odd positions) finds as many Samples as it
asks for: what stood in the return buffer and has arrived so far covers the 1 Sample of the
discard-read and the 2 of each round-trip. -/
def FetchesSupplied (buf : List Sample) (ms : List EnvMove) : Prop :=
  ∀ k < 33, 2 * k + 1 ≤ (buf ++ (ms.take (2 * k + 2)).flatMap fun m => m.arrived).length

end Sys2Proof.Machine
end

