-- ==== Sys2Proof/Certificates/Slice0/Obligations.lean ====
section
/-! DEFINITION. The statements about the machine. -/

open Sys2Proof Sys2Proof.Machine

/-! ### The bit-frame encoder and the bursts -/

/-- R88: for every width from 0 to 32, Sample `2i` of `encode_bits` is STROBE, CLOCK and the MOSI
flag of bit `width-1-i`, and Sample `2i+1` is the same Sample with CLOCK cleared; there is no other
Sample. -/
def Obligations.EncodeBitsSampleBySample : Prop :=
  ∀ (p : Pins) (value width : Nat), p.Valid → width ≤ 32 →
    ∃ frame, encodeBits p value width = some frame ∧ frame.length = 2 * width ∧
      ∀ i < width,
        frame[2 * i]? = some (strobeFlag p ||| clockFlag p |||
          (if value.testBit (width - 1 - i) then mosiFlag p else 0)) ∧
        frame[2 * i + 1]? = frame[2 * i]?.map (· &&& ~~~clockFlag p)

/-- R90 with D10 (the spec's own choice, log 26): a width above 32 has no value; bits of the value at and
above `width` are not looked at (R91). -/
def Obligations.EncodeBitsDomain : Prop :=
  ∀ (p : Pins) (value width : Nat),
    (32 < width → encodeBits p value width = none) ∧
    encodeBits p value width = encodeBits p (value % 2 ^ width) width

/-- R93: decoding the MOSI flags of the even Samples gives the value back. -/
def Obligations.FrameDecodesToItsValue : Prop :=
  ∀ (p : Pins) (value width : Nat), p.Valid → width ≤ 32 → value < 2 ^ width →
    ∃ frame, encodeBits p value width = some frame ∧ decodeFrame p frame width = value

/-- R95 (a), marked derived in the spec: a frame of `w1 + w2` bits is the frame of the upper bits
followed by the frame of the lower bits. -/
def Obligations.FrameConcatenation : Prop :=
  ∀ (p : Pins) (value w1 w2 : Nat),
    bitFrame p value (w1 + w2) = bitFrame p (value >>> w2) w1 ++ bitFrame p value w2

/-- R96 (decision D3): the serialiser's slots, in order, are the frame. -/
def Obligations.SerialiserProducesTheFrame : Prop :=
  ∀ (p : Pins) (value width : Nat),
    bitFrame p value width = (List.range (2 * width)).map (serialiserSlot p value width)

/-- R66: of the Samples the block emits, in any state, STROBE is 1 in every one but the two of the
trailers, which end the second burst of SYNC, the second burst of WRITE and the first burst of READ. -/
def Obligations.StrobeLowExactlyInTrailers : Prop :=
  ∀ (s : State) (burst : List Sample), s.pins.Valid → s.transaction = some (.emit burst) →
    if s.phase = .syW2 ∨ s.phase = .wrW2 ∨ s.phase = .rdW1 then
      burst.length = 18 ∧ ∀ k < 18, (asserted (strobeFlag s.pins) (burst.getD k 0) = true ↔ k < 16)
    else ∀ x ∈ burst, asserted (strobeFlag s.pins) x = true

/-- R73, R74, marked derived in the spec: a burst is a whole number of clock periods, the first
Sample of a period with CLOCK 1, the second the same Sample with CLOCK 0. -/
def Obligations.ClockPeriodsAndStableLines : Prop :=
  ∀ (p : Pins) (l : List Sample), p.Valid → IsBurst p l →
    ∃ n, l.length = 2 * n ∧ ∀ j < n,
      asserted (clockFlag p) (l.getD (2 * j) 0) = true ∧
      l.getD (2 * j + 1) 0 = l.getD (2 * j) 0 &&& ~~~clockFlag p

/-- R61, R62, R64, marked derived in the spec: every emitted Sample is one of the eight, so its MISO
bit and its four unused bits are 0 (decision D2, log 22). -/
def Obligations.EmittedAlphabetIsClosed : Prop :=
  ∀ (p : Pins) (l : List Sample), p.Valid → IsBurst p l →
    ∀ x ∈ l, x ∈ alphabet p ∧ x.getLsbD p.miso = false ∧ x &&& ~~~outputLines p = 0

/-- R75, marked derived in the spec: the address bursts of WRITE and READ for one address differ in
their last two Samples only, and there only in the MOSI flag: 1 commits, 0 requests a read. -/
def Obligations.TrailersDifferInMosiOnly : Prop :=
  ∀ (p : Pins) (a : Addr), p.Valid → ∀ k < 18,
    (k < 16 → (burstWR2 p a).getD k 0 = (burstRD1 p a).getD k 0) ∧
    (16 ≤ k → (burstWR2 p a).getD k 0 = (burstRD1 p a).getD k 0 ||| mosiFlag p ∧
      asserted (mosiFlag p) ((burstRD1 p a).getD k 0) = false)

/-- R71, R57: the sizes of the six bursts, and SY2 as the address burst of a WRITE to the sentinel. -/
def Obligations.BurstSizes : Prop :=
  ∀ (p : Pins) (a : Addr) (v : Value),
    (burstSY1 p).length = 66 ∧ (burstSY2 p).length = 18 ∧ (burstWR1 p v).length = 64 ∧
    (burstWR2 p a).length = 18 ∧ (burstRD1 p a).length = 18 ∧ (burstRDP p).length = 2 ∧
    burstSY2 p = burstWR2 p 0xFE

/-! ### The command word -/

/-- R78, R79 (decision D4): every operation, with every content of its fields, is read back from its
command word. -/
def Obligations.DecodeOfEncode : Prop :=
  ∀ i : Instr, i.wellFormed = true → decode (encode i) = .ok i

/-- R78, R79, R83 (decision D4): a command word that selects an operation is the word of that
operation, so no bit of it is dropped. -/
def Obligations.EncodeOfDecode : Prop :=
  ∀ (w : CmdWord) (i : Instr), decode w = .ok i → encode i = w

/-- R79, R81 (decisions D4, D5): the mask and match of each operation, and the reserved words. -/
def Obligations.DecodeByMaskAndMatch : Prop :=
  ∀ w : CmdWord,
    ((∃ a v, decode w = .ok (.sync a v)) ↔ w &&& 0x30000000000#42 = 0x00000000000#42) ∧
    ((∃ a v, decode w = .ok (.write a v)) ↔ w &&& 0x30000000000#42 = 0x10000000000#42) ∧
    ((∃ a v, decode w = .ok (.read a v)) ↔ w &&& 0x30000000000#42 = 0x20000000000#42) ∧
    (decode w = .error .reservedOp ↔ w &&& 0x30000000000#42 = 0x30000000000#42)

/-- 95_test_vectors.md Y1, Y2, W1, D1, Q2: words of the spec and what they stand for. -/
def Obligations.SpecWordsDecode : Prop :=
  decode 0x00000000000 = .ok (.sync 0 0) ∧
  decode 0x0AB12345678 = .ok (.sync 0xAB 0x12345678) ∧
  decode 0x102DEADBEEF = .ok (.write 0x02 0xDEADBEEF) ∧
  decode 0x2FF00000000 = .ok (.read 0xFF 0) ∧
  decode 0x31200000034 = .error .reservedOp

/-! ### SYNC -/

/-- R99, R100, R101 with D7, D9, D12: the whole effect of a SYNC whose three transactions complete, and
all it leaves unchanged. That `rdata` is a free value afterwards is log 6; the return buffer is log 8;
the list of results is log 12. The count of driven Samples, 0 here, is log 31's. -/
def Obligations.SyncCompletes : Prop :=
  ∀ (s : State) (a : Addr) (v : Value) (m0 m1 m2 : EnvMove) (rest : List Answer),
    s.phase = .idle → s.answers = .completes m0 :: .completes m1 :: .completes m2 :: rest →
    exec (.sync a v) s = .next { s with
      addrQ := a
      valueQ := v
      status := .ok
      done := true
      linkPhase := .synced
      lineOut := mosiFlag s.pins
      driven := 0
      rdata := Config.freeRdata (s.draws + 3)
      retBuf := m1.arrived ++ m2.arrived
      trace := s.trace ++ [.purge,
        .write (bitFrame s.pins 0 32 ++
          [strobeFlag s.pins ||| clockFlag s.pins ||| mosiFlag s.pins, strobeFlag s.pins ||| mosiFlag s.pins]),
        .write (bitFrame s.pins 0xFE 8 ++ [mosiFlag s.pins ||| clockFlag s.pins, mosiFlag s.pins])]
      results := s.results ++ [⟨.ok, Config.freeRdata (s.draws + 3)⟩]
      answers := rest
      draws := s.draws + 3 }

/-- R102: a fault in the purge, in the first burst, in the second burst. The remaining transactions
are not performed; a fault in the purge means that no Sample was emitted. The events of the failed
transactions are log 11's, after 95_test_vectors.md Y3 and Y4. A short count fails in the same way
(`FaultEntry`). -/
def Obligations.SyncFaults : Prop :=
  ∀ (s : State) (a : Addr) (v : Value) (m0 m1 m2 : EnvMove) (n : Nat) (rest : List Answer),
    s.phase = .idle →
    (s.answers = .error n m0 :: rest →
      ∃ t, exec (.sync a v) s = .next t ∧ t.trace = s.trace ++ [.purgeError] ∧ t.lineOut = s.lineOut ∧
        t.linkPhase = .unknown ∧ t.status = .transportIoError ∧ t.phase = .idle ∧ t.answers = rest) ∧
    (s.answers = .completes m0 :: .error n m1 :: rest →
      ∃ t, exec (.sync a v) s = .next t ∧ t.trace = s.trace ++ [.purge, .writeError (burstSY1 s.pins)] ∧
        t.linkPhase = .unknown ∧ t.status = .transportIoError ∧ t.phase = .idle ∧ t.answers = rest) ∧
    (s.answers = .completes m0 :: .completes m1 :: .error n m2 :: rest →
      ∃ t, exec (.sync a v) s = .next t ∧
        t.trace = s.trace ++ [.purge, .write (burstSY1 s.pins), .writeError (burstSY2 s.pins)] ∧
        t.linkPhase = .unknown ∧ t.status = .transportIoError ∧ t.phase = .idle ∧ t.answers = rest)

/-! ### WRITE -/

/-- R106: a WRITE performs the burst of the value, then the burst of the address with the commit
trailer, and nothing else, and ends with status OK. -/
def Obligations.WriteEmitsValueThenAddress : Prop :=
  ∀ (s : State) (a : Addr) (v : Value) (m0 m1 : EnvMove) (rest : List Answer),
    s.phase = .idle → s.answers = .completes m0 :: .completes m1 :: rest →
    ∃ value address t, encodeBits s.pins v.toNat 32 = some value ∧
      encodeBits s.pins a.toNat 8 = some address ∧ value.length = 64 ∧ address.length = 16 ∧
      exec (.write a v) s = .next t ∧ t.phase = .idle ∧ t.answers = rest ∧ t.status = .ok ∧
      t.trace = s.trace ++ [.write value,
        .write (address ++ [mosiFlag s.pins ||| clockFlag s.pins, mosiFlag s.pins])]

/-- R107, R40, R109 (g): the whole effect of a WRITE whose two transactions complete, and all it leaves
unchanged. While the link is synchronised the ideal target's register `a` takes `v`; while it is not,
the effect on the target is the environment's (log 10). `rdata` is a free value afterwards (log 6); the
return buffer is log 8; the list of results is log 12. The count of driven Samples, 0 here, is log 31's.
-/
def Obligations.WriteCompletes : Prop :=
  ∀ (s : State) (a : Addr) (v : Value) (m0 m1 : EnvMove) (rest : List Answer),
    s.phase = .idle → s.answers = .completes m0 :: .completes m1 :: rest →
    exec (.write a v) s = .next { s with
      addrQ := a
      valueQ := v
      status := .ok
      done := true
      lineOut := mosiFlag s.pins
      driven := 0
      rdata := Config.freeRdata (s.draws + 2)
      retBuf := s.retBuf ++ m0.arrived ++ m1.arrived
      target := s.target.map fun t =>
        if s.linkPhase = .synced then Memory.write t a v else Memory.writeAll t m1.changes
      trace := s.trace ++ [.write (burstWR1 s.pins v), .write (burstWR2 s.pins a)]
      results := s.results ++ [⟨.ok, Config.freeRdata (s.draws + 2)⟩]
      answers := rest
      draws := s.draws + 2 }

/-- R107, R40 (decision D23), R37: on a synchronised link a WRITE whose transactions complete changes one
whole register of the ideal target, `a`, to `v`; every other register reads as before, and the target's
list keeps its canonical form. -/
def Obligations.WriteStoresOneRegister : Prop :=
  ∀ (s : State) (T : Memory) (a : Addr) (v : Value) (m0 m1 : EnvMove) (rest : List Answer),
    s.Trusted → s.target = some T → Memory.Wf T → s.answers = .completes m0 :: .completes m1 :: rest →
    ∃ t U, exec (.write a v) s = .next t ∧ t.target = some U ∧ Memory.Wf U ∧
      ∀ b : Addr, Memory.read U b = if b = a then v else Memory.read T b

/-- R108: a fault in the first burst (the second is not emitted) and in the second burst. Whether the
target register changed is unknown: what the target becomes is the environment's choice (log 10). The
events of the failed bursts are log 11's. A WRITE ends with no other completion code than these faults'
and OK, whatever its address and value. A short count fails in the same way (`FaultEntry`). -/
def Obligations.WriteFaults : Prop :=
  ∀ (s : State) (a : Addr) (v : Value) (m0 m1 : EnvMove) (n : Nat) (rest : List Answer),
    s.phase = .idle →
    (s.answers = .error n m0 :: rest →
      ∃ t, exec (.write a v) s = .next t ∧ t.trace = s.trace ++ [.writeError (burstWR1 s.pins v)] ∧
        t.linkPhase = .unknown ∧ t.status = .transportIoError ∧ t.phase = .idle ∧ t.answers = rest ∧
        t.target = s.target.map fun T => Memory.writeAll T m0.changes) ∧
    (s.answers = .completes m0 :: .error n m1 :: rest →
      ∃ t, exec (.write a v) s = .next t ∧
        t.trace = s.trace ++ [.write (burstWR1 s.pins v), .writeError (burstWR2 s.pins a)] ∧
        t.linkPhase = .unknown ∧ t.status = .transportIoError ∧ t.phase = .idle ∧ t.answers = rest ∧
        t.target = s.target.map fun T => Memory.writeAll T m1.changes) ∧
    (∀ t, exec (.write a v) s = .next t → t.done = true → t.status = .ok ∨ t.status = .transportIoError)

/-! ### READ -/

/-- R112: a READ whose 66 transactions complete, each fetch finding its Samples (log 8), emits the
address burst with the read-request trailer, fetches one Sample, then performs 32 round-trips of a
sampling pulse and a fetch of two Samples; bit `31 - i` of the result is the MISO flag of the second
Sample of round-trip `i`. -/
def Obligations.ReadRoundTrips : Prop :=
  ∀ (s : State) (a : Addr) (v : Value) (ms : List EnvMove) (rest : List Answer),
    s.phase = .idle → ms.length = 66 → FetchesSupplied s.retBuf ms → s.answers = ms.map .completes ++ rest →
    ∃ (address : List Sample) (d : Sample) (rs : List (Sample × Sample)) (t : State),
      encodeBits s.pins a.toNat 8 = some address ∧ rs.length = 32 ∧
      exec (.read a v) s = .next t ∧ t.phase = .idle ∧ t.answers = rest ∧ t.status = .ok ∧
      t.trace = s.trace ++ .write (address ++ [clockFlag s.pins, 0]) :: .read 1 [d] ::
        rs.flatMap (fun r => [.write [strobeFlag s.pins ||| clockFlag s.pins, strobeFlag s.pins],
          .read 2 [r.1, r.2]]) ∧
      t.rdata = t.acc ∧ t.bitcnt = 32 ∧
      ∀ i < 32, t.rdata.getLsbD (31 - i) = decide ((rs.getD i (0, 0)).2 &&& misoFlag s.pins ≠ 0)

/-- R112, R116, R117, R29, R46: the whole effect of a READ with no target attached, and all it leaves
unchanged. The Samples it fetches are the first 65 of the return buffer followed by what arrives, stale
Samples first (R119 (f), R174). The return buffer as a queue is log 8; the list of results is log 12.
The count of driven Samples, 0 here, is log 31's. -/
def Obligations.ReadCompletes : Prop :=
  ∀ (s : State) (a : Addr) (v : Value) (ms : List EnvMove) (rest : List Answer),
    s.phase = .idle → s.target = none → ms.length = 66 → FetchesSupplied s.retBuf ms →
    s.answers = ms.map .completes ++ rest →
    ∃ (stream : List Sample) (value : Value),
      stream = s.retBuf ++ ms.flatMap (fun m => m.arrived) ∧ 65 ≤ stream.length ∧
      (∀ i < 32, value.getLsbD (31 - i) = (stream.getD (2 * i + 2) 0).getLsbD s.pins.miso) ∧
      exec (.read a v) s = .next { s with
        addrQ := a
        valueQ := v
        acc := value
        bitcnt := 32
        status := .ok
        rdata := value
        done := true
        lineOut := strobeFlag s.pins
        driven := 0
        retBuf := stream.drop 65
        trace := s.trace ++ .write (burstRD1 s.pins a) :: .read 1 [stream.getD 0 0] ::
          (List.range 32).flatMap (fun i => [.write (burstRDP s.pins),
            .read 2 [stream.getD (2 * i + 1) 0, stream.getD (2 * i + 2) 0]])
        results := s.results ++ [⟨.ok, value⟩]
        answers := rest
        draws := s.draws + 66 }

/-- R118: a READ that fails in its `k`-th transaction, for every `k` below 66: the `k` transactions before
it are done, the failed one is the last event, the remaining ones are not performed, `rdata` is a free
value (log 6) and not the partial `acc`. The events of failed transactions are log 11's; that a fetch
finds its Samples in a queue is log 8. -/
def Obligations.ReadFaults : Prop :=
  ∀ (s : State) (a : Addr) (v : Value) (ms : List EnvMove) (m : EnvMove) (n : Nat) (bad : Answer)
    (rest : List Answer), s.phase = .idle → ms.length < 66 →
    (∀ j < ms.length / 2, 2 * j + 1 ≤ (s.retBuf ++ (ms.take (2 * j + 2)).flatMap fun m => m.arrived).length) →
    bad = .error n m ∨ bad = .short n m → s.answers = ms.map .completes ++ bad :: rest →
    ∃ t, exec (.read a v) s = .next t ∧ t.phase = .idle ∧ t.done = true ∧ t.status = .transportIoError ∧
      t.linkPhase = .unknown ∧ t.rdata = Config.freeRdata (s.draws + ms.length + 1) ∧ t.answers = rest ∧
      s.trace <+: t.trace ∧ t.trace.length = s.trace.length + ms.length + 1 ∧
      t.trace.getLast? = some (if ms.length = 0 then .writeError (burstRD1 s.pins a)
        else if ms.length = 1 then .readError 1
        else if ms.length % 2 = 0 then .writeError (burstRDP s.pins)
        else .readError 2)

/-- R40 (decision D23, for tests only): a READ of a synchronised link with the ideal target attached
returns the addressed register, whatever the other returned bits are, and leaves the target as it
was. That each fetch finds its Samples in a queue is log 8. -/
def Obligations.ReadOfIdealTarget : Prop :=
  ∀ (s : State) (T : Memory) (a : Addr) (v : Value) (ms : List EnvMove) (rest : List Answer),
    s.Trusted → s.target = some T → ms.length = 66 → FetchesSupplied s.retBuf ms →
    s.answers = ms.map .completes ++ rest →
    ∃ t, exec (.read a v) s = .next t ∧ t.phase = .idle ∧ t.status = .ok ∧ t.linkPhase = .synced ∧
      t.rdata = Memory.read T a ∧ t.target = some T

/-- R40, R45 (decision D23): on a synchronised link with the ideal target attached, a WRITE and then a
READ of the same register returns the value written. The target's list is in its canonical form (log
9), which every step keeps (`State.Inv`); each fetch finds its Samples in a queue (log 8). -/
def Obligations.WriteThenReadReturnsTheValue : Prop :=
  ∀ (s : State) (T : Memory) (a : Addr) (v junk : Value) (m0 m1 : EnvMove) (ms : List EnvMove)
    (rest : List Answer),
    s.Trusted → s.target = some T → Memory.Wf T → ms.length = 66 →
    FetchesSupplied (s.retBuf ++ m0.arrived ++ m1.arrived) ms →
    s.answers = .completes m0 :: .completes m1 :: ms.map .completes ++ rest →
    ∃ t u, exec (.write a v) s = .next t ∧ exec (.read a junk) t = .next u ∧
      u.status = .ok ∧ u.rdata = v ∧ u.answers = rest

/-- R113: of the two Samples of a round-trip the block reads the MISO flag of the second one and nothing
else. Two round-trips of one state whose second Samples agree in that flag lead to states that differ
in nothing but the Samples the trace records, whatever the environment returns. -/
def Obligations.OnlySecondMisoIsRead : Prop :=
  ∀ (s : State) (buf buf' : List Sample) (m m' : EnvMove) (r0 r1 q0 q1 : Sample) (more : List Sample)
    (rest : List Answer), s.phase = .rdFetch → s.target = none →
    buf ++ m.arrived = r0 :: r1 :: more → buf' ++ m'.arrived = q0 :: q1 :: more →
    r1.getLsbD s.pins.miso = q1.getLsbD s.pins.miso →
    ∃ t u, step { s with retBuf := buf, answers := .completes m :: rest } = .next t ∧
      step { s with retBuf := buf', answers := .completes m' :: rest } = .next u ∧
      u = { t with trace := s.trace ++ [.read 2 [q0, q1]] } ∧
      t.acc = (s.acc <<< 1) ||| (if r1.getLsbD s.pins.miso then 1 else 0)

/-! ### The sequencer -/

/-- R126: the burst of every phase that has one, and that it is a function of the phase, the operand
latches and the pin binding alone. -/
def Obligations.BurstOfEachPhase : Prop :=
  (∀ (s : State), ∃ zeros sentinel value address,
    encodeBits s.pins 0 32 = some zeros ∧ encodeBits s.pins 0xFE 8 = some sentinel ∧
    encodeBits s.pins s.valueQ.toNat 32 = some value ∧ encodeBits s.pins s.addrQ.toNat 8 = some address ∧
    (s.phase = .syW1 → s.transaction = some (.emit (zeros ++
      [strobeFlag s.pins ||| clockFlag s.pins ||| mosiFlag s.pins, strobeFlag s.pins ||| mosiFlag s.pins]))) ∧
    (s.phase = .syW2 → s.transaction = some (.emit (sentinel ++
      [mosiFlag s.pins ||| clockFlag s.pins, mosiFlag s.pins]))) ∧
    (s.phase = .wrW1 → s.transaction = some (.emit value)) ∧
    (s.phase = .wrW2 → s.transaction = some (.emit (address ++
      [mosiFlag s.pins ||| clockFlag s.pins, mosiFlag s.pins]))) ∧
    (s.phase = .rdW1 → s.transaction = some (.emit (address ++ [clockFlag s.pins, 0]))) ∧
    (s.phase = .rdPulse → s.transaction = some (.emit [strobeFlag s.pins ||| clockFlag s.pins, strobeFlag s.pins]))) ∧
  ∀ s u : State, s.phase = u.phase → s.addrQ = u.addrQ → s.valueQ = u.valueQ → s.pins = u.pins →
    s.transaction = u.transaction

/-- R122: acceptance of every command word, a step of its own. The latches take the operand fields, the
first phase of the selected operation follows, and no transaction is performed; the reserved word ends
at once. The host's words are log 7; that `done` is 0 after an acceptance is log 25; that nothing
arrives in the return buffer in this step is log 32. The count of driven Samples, 0 here, is log 31's.
-/
def Obligations.AcceptanceOfACommand : Prop :=
  ∀ (s : State) (w : CmdWord) (rest : List HostMove), s.phase = .idle → s.host = .command w :: rest →
    let accepted (p : Phase) : State := { s with
      host := rest
      addrQ := w.extractLsb' 32 8
      valueQ := w.extractLsb' 0 32
      phase := p
      driven := 0
      done := false }
    (w.extractLsb' 40 2 = 0 → step s = .next (accepted .syPurge)) ∧
    (w.extractLsb' 40 2 = 1 → step s = .next (accepted .wrW1)) ∧
    (w.extractLsb' 40 2 = 2 → step s = .next (accepted .rdW1)) ∧
    (w.extractLsb' 40 2 = 3 → ∃ t, step s = .next t ∧ t.phase = .idle ∧ t.status = .illegalCommand ∧
      t.done = true ∧ t.addrQ = w.extractLsb' 32 8 ∧ t.valueQ = w.extractLsb' 0 32 ∧ t.trace = s.trace)

/-- R125: what a completed transaction does in each phase that does not end an operation. The return
buffer as a queue, emptied by a purge whatever arrives meanwhile, is log 8; the fall of `done` is log
25. The count of driven Samples, 0 here, is log 31's. -/
def Obligations.StepThroughThePhases : Prop :=
  ∀ (s : State) (m : EnvMove) (rest : List Answer), s.answers = .completes m :: rest →
    let next : State := { s with answers := rest, draws := s.draws + 1, done := false, driven := 0 }
    let emitted (l : List Sample) (x : Sample) (p : Phase) : State :=
      { next with retBuf := s.retBuf ++ m.arrived, lineOut := x, trace := s.trace ++ [.write l], phase := p }
    (s.phase = .syPurge → step s = .next
      { next with retBuf := [], trace := s.trace ++ [.purge], phase := .syW1 }) ∧
    (s.phase = .syW1 → step s = .next (emitted (burstSY1 s.pins) (B1L s.pins) .syW2)) ∧
    (s.phase = .wrW1 → step s = .next (emitted (burstWR1 s.pins s.valueQ)
      (if s.valueQ.getLsbD 0 then B1L s.pins else B0L s.pins) .wrW2)) ∧
    (s.phase = .rdW1 → step s = .next (emitted (burstRD1 s.pins s.addrQ) (TRL s.pins) .rdDiscard)) ∧
    (s.phase = .rdPulse → step s = .next (emitted (burstRDP s.pins) (B0L s.pins) .rdFetch)) ∧
    (s.phase = .rdDiscard → ∀ d more, s.retBuf ++ m.arrived = d :: more → step s = .next
      { next with retBuf := more, trace := s.trace ++ [.read 1 [d]], acc := 0, bitcnt := 0, phase := .rdPulse })

/-- R125, R129: the last burst of SYNC and of WRITE. That `rdata` is a free value afterwards is log 6,
the return buffer log 8, the list of results log 12, the target while the link is not synchronised log
10. The count of driven Samples, 0 here, is log 31's. -/
def Obligations.LastBurstEndsTheOperation : Prop :=
  ∀ (s : State) (m : EnvMove) (rest : List Answer), s.answers = .completes m :: rest →
    let ended (l : List Sample) (link : LinkPhase) (target : Option Memory) : State := { s with
      answers := rest
      draws := s.draws + 1
      retBuf := s.retBuf ++ m.arrived
      lineOut := TCL s.pins
      driven := 0
      trace := s.trace ++ [.write l]
      linkPhase := link
      target := target
      rdata := Config.freeRdata (s.draws + 1)
      status := .ok
      done := true
      phase := .idle
      results := s.results ++ [⟨.ok, Config.freeRdata (s.draws + 1)⟩] }
    (s.phase = .syW2 → step s = .next (ended (burstSY2 s.pins) .synced s.target)) ∧
    (s.phase = .wrW2 → step s = .next (ended (burstWR2 s.pins s.addrQ) s.linkPhase (s.target.map fun t =>
      if s.linkPhase = .synced then Memory.write t s.addrQ s.valueQ else Memory.writeAll t m.changes)))

/-- R125, R127: the round-trip. It leads back to the next pulse while fewer than 32 are done, and the
32nd ends the READ with its result. The return buffer as a queue is log 8, the list of results log 12.
The count of driven Samples, 0 here, is log 31's. -/
def Obligations.RoundTripCountsToThirtyTwo : Prop :=
  ∀ (s : State) (m : EnvMove) (rest : List Answer) (r0 r1 : Sample) (more : List Sample),
    s.phase = .rdFetch → s.target = none → s.bitcnt.toNat < 32 →
    s.answers = .completes m :: rest → s.retBuf ++ m.arrived = r0 :: r1 :: more →
    let acc : Value := (s.acc <<< 1) ||| (if r1.getLsbD s.pins.miso then 1 else 0)
    let after : State := { s with
      answers := rest, draws := s.draws + 1, retBuf := more, acc := acc, bitcnt := s.bitcnt + 1, driven := 0
      trace := s.trace ++ [.read 2 [r0, r1]] }
    step s = .next (if s.bitcnt = 31
      then { after with phase := .idle, rdata := acc, status := .ok, done := true, results := s.results ++ [⟨.ok, acc⟩] }
      else { after with phase := .rdPulse, done := false })

/-- R146: fault entry, in every phase and for every way a transaction fails. Whatever `rdata` then
holds, no proof can see it (log 6). The event of a failed transaction is the one 95_test_vectors.md
prints (log 11). The count of driven Samples, 0 here, is log 31's. -/
def Obligations.FaultEntry : Prop :=
  ∀ (s : State) (tr : Transaction), s.transaction = some tr → s.Failing →
    ∃ t, step s = .next t ∧ t.phase = .idle ∧ t.cmdReady = true ∧ t.status = .transportIoError ∧
      t.linkPhase = .unknown ∧ t.done = true ∧ t.rdata = Config.freeRdata (s.draws + 1) ∧
      t.trace = s.trace ++ [tr.failedEvent] ∧ t.driven = 0 ∧
      t.addrQ = s.addrQ ∧ t.valueQ = s.valueQ ∧ t.acc = s.acc ∧ t.bitcnt = s.bitcnt ∧
      t.pins = s.pins ∧ t.host = s.host ∧ t.answers = s.answers.tail

/-- R128 (decision D14): the part of a failed burst that reached the bus, and the number of Samples a
failed fetch took, are the environment's: every prefix of the burst that holds what was driven before
(R133), and every number below the one asked for (log 17). The return buffer as a queue, and what
arrives in it, is log 8. The count of Samples driven before is log 31's. -/
def Obligations.PartialEffectOfAFailedTransaction : Prop :=
  ∀ (s : State) (n : Nat) (m : EnvMove) (rest : List Answer), s.answers = .error n m :: rest →
    (∀ burst, s.transaction = some (.emit burst) → ∃ t, step s = .next t ∧
      t.lineOut = (((burst.drop s.driven).take n).getLast?).getD s.lineOut ∧ t.retBuf = s.retBuf ++ m.arrived) ∧
    (∀ k, s.transaction = some (.fetch k) → ∃ t taken, step s = .next t ∧ taken < k ∧ (n < k → taken = n) ∧
      t.retBuf = (s.retBuf ++ m.arrived).drop taken ∧ t.lineOut = s.lineOut)

/-- R132, R133: while the transport does not complete the transaction, the block stays in its phase,
busy, and performs no other transaction, for however many steps. The Samples of a burst go on being
driven in list order, as many in each step as the environment says (log 31), and the lines show the
last one driven; what arrives in the return buffer is the environment's too (log 8). -/
def Obligations.HangWhileNotCompleted : Prop :=
  ∀ (s : State) (ws : List (Nat × EnvMove)) (rest : List Answer), s.busy = true →
    s.answers = (ws.map fun w => .notYet w.1 w.2) ++ rest →
    ∃ t, runSteps ws.length s = .next t ∧
      t = { s with
        answers := rest
        draws := s.draws + ws.length
        done := if ws = [] then s.done else false
        retBuf := s.retBuf ++ ws.flatMap fun w => w.2.arrived
        lineOut := s.linesDuring (ws.map fun w => w.1).sum
        driven := t.driven } ∧
      (∀ burst, s.transaction = some (.emit burst) →
        t.driven = s.driven + min (ws.map fun w => w.1).sum (burst.length - s.driven)) ∧
      ((∀ burst, s.transaction ≠ some (.emit burst)) → t.driven = s.driven ∧ t.lineOut = s.lineOut)

/-- R23, R133: a step of a burst drives Samples from where the lines were on, in list order, and takes
none back. After a step in which the transport has not completed the burst, `k` further Samples give
what they gave before it, counted on; a burst that fails leaves the lines where its last driven Sample
put them. How many Samples a step drives is the environment's answer (logs 17, 31). -/
def Obligations.LinesGoOnInListOrder : Prop :=
  ∀ (s : State) (burst : List Sample) (n : Nat) (m : EnvMove) (rest : List Answer),
    s.transaction = some (.emit burst) →
    (s.answers = .notYet n m :: rest → ∃ t, step s = .next t ∧ t.transaction = s.transaction ∧
      s.driven ≤ t.driven ∧ ∀ k, t.linesDuring k = s.linesDuring (n + k)) ∧
    (s.answers = .error n m :: rest → ∃ t, step s = .next t ∧ t.lineOut = s.linesDuring n) ∧
    (s.answers = .short n m :: rest → ∃ t j, step s = .next t ∧ j ≤ n ∧ t.lineOut = s.linesDuring j ∧
      (s.driven < burst.length → s.driven + j < burst.length))

/-- R74: whenever CLOCK falls between two Samples that follow each other on the lines, nothing else
changes with it. The premise is the invariant, which every step keeps. The count of driven Samples in it
is log 31's. -/
def Obligations.LinesStableAcrossFallingEdge : Prop :=
  ∀ (s : State) (k : Nat), s.Inv →
    asserted (clockFlag s.pins) (s.linesDuring k) = true →
    asserted (clockFlag s.pins) (s.linesDuring (k + 1)) = false →
    s.linesDuring (k + 1) = s.linesDuring k &&& ~~~clockFlag s.pins

/-- R123 (decision D16): a busy block accepts no command. A step leaves the host's commands where they
are, and an operation presented to it (log 14) changes nothing. -/
def Obligations.BusyBlockAcceptsNothing : Prop :=
  ∀ (s : State), s.busy = true → s.cmdReady = false ∧
    (∃ t, step s = .next t ∧ t.host = s.host) ∧ ∀ i, exec i s = .next s

/-- R131: an operation run by `exec` (log 3) is its accepted state followed by at most 66 steps of the
sequencer, whatever the environment answers. -/
def Obligations.ExecIsTheSequencerRun : Prop :=
  ∀ (i : Instr) (s : State), s.phase = .idle →
    ∃ n, n ≤ 66 ∧ exec i s = runSteps n (s.accepted i)

/-- R132: an operation ends, or the transport keeps the block waiting. A block that is still busy after
`exec` has just been told that its transaction is not completed; so with 66 answers to come and none of
them such, the operation ends. -/
def Obligations.OperationEndsOrWaits : Prop :=
  ∀ (i : Instr) (s : State), s.phase = .idle →
    ∃ t, exec i s = .next t ∧
      (t.busy = true → ∃ j < 66, t.draws = s.draws + j + 1 ∧ ∃ n m, s.answerAt j = .notYet n m) ∧
      (66 ≤ s.answers.length → (∀ n m, Answer.notYet n m ∉ s.answers) → t.busy = false)

/-- R132, R57, and 95_test_vectors.md Q4 to Q6: with every transaction completed SYNC ends after 3
steps, WRITE after 2, READ after 66, in the state `exec` answers (R131), and is in the phases of R125
until then. That each fetch of a READ finds its Samples in a queue is log 8; that acceptance is a step of
its own before these is R122. -/
def Obligations.StepsOfACompletedOperation : Prop :=
  ∀ (s : State) (a : Addr) (v : Value) (ms : List EnvMove) (rest : List Answer),
    s.phase = .idle → s.answers = ms.map .completes ++ rest →
    (ms.length = 3 → runSteps 3 (s.accepted (.sync a v)) = exec (.sync a v) s ∧
      ∀ k < 3, ∃ t, runSteps k (s.accepted (.sync a v)) = .next t ∧
        t.phase = if k = 0 then .syPurge else if k = 1 then .syW1 else .syW2) ∧
    (ms.length = 2 → runSteps 2 (s.accepted (.write a v)) = exec (.write a v) s ∧
      ∀ k < 2, ∃ t, runSteps k (s.accepted (.write a v)) = .next t ∧
        t.phase = if k = 0 then .wrW1 else .wrW2) ∧
    (ms.length = 66 → FetchesSupplied s.retBuf ms →
      runSteps 66 (s.accepted (.read a v)) = exec (.read a v) s ∧
      ∀ k < 66, ∃ t, runSteps k (s.accepted (.read a v)) = .next t ∧ t.phase = readPhase k ∧
        (2 ≤ k → t.bitcnt.toNat = (k - 2) / 2))

/-- R129 (decision D3): an operation leaves exactly one result, at its `done`; a step without `done`
leaves none. Only a reset empties the list, and it pulses no `done` (R163). The list is log 12. -/
def Obligations.OneResultPerDone : Prop :=
  ∀ (s t : State), step s = .next t →
    (t.done = true → t.phase = .idle ∧ t.results = s.results ++ [⟨t.status, t.rdata⟩]) ∧
    (t.done = false → ¬ s.Resetting → t.results = s.results) ∧
    (s.Resetting → t.done = false ∧ t.results = [])

/-- R49, R124, R10: a step never takes back or reorders what the trace holds, and adds at most one
transaction, in whatever phase; only a reset empties the trace (R161). -/
def Obligations.TraceOnlyGrows : Prop :=
  ∀ (s t : State), step s = .next t →
    (¬ s.Resetting → s.trace <+: t.trace ∧ t.trace.length ≤ s.trace.length + 1) ∧
    (s.Resetting → t.trace = [])

/-- R54: WRITE and READ never purge, whatever the environment answers. -/
def Obligations.OnlySyncPurges : Prop :=
  ∀ (s t : State) (a : Addr) (v : Value), (exec (.write a v) s = .next t ∨ exec (.read a v) s = .next t) →
    (t.trace.count .purge ≤ s.trace.count .purge) ∧ (t.trace.count .purgeError ≤ s.trace.count .purgeError)

/-- R26 (decision D3): the ports. An idle block requests nothing; a busy one drives exactly one of the
sample-out stream, the fetch request and the purge request. The stream is the burst, with `tx_last` at
its last Sample only, and a fetch asks for 1 or 2 Samples. -/
def Obligations.PortsFollowTheTransaction : Prop :=
  ∀ (s : State),
    (s.cmdReady = true → s.txValid = false ∧ s.rxReq = false ∧ s.purgeReq = false) ∧
    (s.cmdReady = false → [s.txValid, s.rxReq, s.purgeReq].count true = 1) ∧
    (s.rxReq = true → (s.rxN = 1 ∨ s.rxN = 2) ∧ s.transaction = some (.fetch s.rxN.toNat)) ∧
    (s.txValid = true → s.transaction = some (.emit (s.txStream.map (·.1))) ∧ 0 < s.txStream.length ∧
      ∀ k < s.txStream.length, (s.txStream.getD k (0, false)).2 = decide (k + 1 = s.txStream.length))

/-- R133, R23 (decision D18): inside a burst of which `driven` Samples are out the lines show the next
Samples one after another; the last one stays, and a completed burst leaves it in `line_out`. The count
of driven Samples is log 31's. -/
def Obligations.LinesShowTheBurstInOrder : Prop :=
  ∀ (s : State) (burst : List Sample), s.transaction = some (.emit burst) →
    s.linesDuring 0 = s.lineOut ∧
    (∀ k, s.driven + k < burst.length → s.linesDuring (k + 1) = burst.getD (s.driven + k) 0) ∧
    ∀ m rest t, s.answers = .completes m :: rest → step s = .next t →
      t.lineOut = burst.getD (burst.length - 1) 0 ∧ t.driven = 0

/-- R32: nothing one operation leaves in the block's registers influences a later one. Two idle states
that agree on what is not a register of the block (no target attached) give, for one operation, the
same transactions in the same order and the same result. For a READ that ends with OK the result is
R32's; that `rdata` agrees after SYNC, WRITE and a fault is the model's choice, one free value that does
not depend on the old `rdata` (log 6). -/
def Obligations.NoStateBetweenOperations : Prop :=
  ∀ (i : Instr) (s u t w : State), s.phase = .idle → u.phase = .idle → s.target = none → u.target = none →
    s.pins = u.pins → s.answers = u.answers → s.draws = u.draws → s.retBuf = u.retBuf → s.trace = u.trace →
    exec i s = .next t → exec i u = .next w →
    t.trace = w.trace ∧ t.phase = w.phase ∧ t.retBuf = w.retBuf ∧ t.answers = w.answers ∧ t.draws = w.draws ∧
      t.done = w.done ∧ (t.done = true → t.status = w.status ∧ t.rdata = w.rdata)

/-- The frame of the three operations, whatever the environment answers short of `rst` (R15, R16, R17,
R18, R107, R117): the latches take the operands, SYNC and WRITE leave `acc` and `bitcnt`, only SYNC
can set `link_phase`, no operation touches the pins or the host's moves, and the ideal target changes
only by a WRITE or a fault. -/
def Obligations.OperationFrame : Prop :=
  ∀ (i : Instr) (s t : State), s.phase = .idle → 66 ≤ s.answers.length → (∀ m, Answer.rst m ∉ s.answers) →
    exec i s = .next t →
    t.pins = s.pins ∧ t.host = s.host ∧ s.trace <+: t.trace ∧ s.results <+: t.results ∧
    (∀ a v, i = .sync a v ∨ i = .write a v ∨ i = .read a v → t.addrQ = a ∧ t.valueQ = v) ∧
    ((∃ a v, i = .sync a v ∨ i = .write a v) → t.acc = s.acc ∧ t.bitcnt = s.bitcnt) ∧
    ((∃ a v, i = .write a v ∨ i = .read a v) → t.linkPhase = s.linkPhase ∨ t.linkPhase = .unknown) ∧
    ((∃ a v, i = .sync a v ∨ i = .read a v) → t.target = s.target ∨ (t.done = true ∧ t.status = .transportIoError))

/-! ### The step, reset and the invariant -/

/-- R122, R124, R131: the host's next command, when its word selects an operation, is taken from the host
and accepted by this step, which performs no transaction; that step and at most 66 more, one transaction
each, give exactly `exec` of the operation. The host's words are log 7, the form of `exec` log 3. -/
def Obligations.StepRunsTheDecodedOperation : Prop :=
  ∀ (s : State) (w : CmdWord) (i : Instr) (rest : List HostMove), s.phase = .idle →
    s.host = .command w :: rest → decode w = .ok i → i.wellFormed = true →
    step s = .next (({ s with host := rest } : State).accepted i) ∧
    ∃ n ≤ 66, runSteps (n + 1) s = exec i { s with host := rest }

/-- R81, R122, R136, R144 (decision D5): the reserved word performs no transaction and ends at once with
ILLEGAL_COMMAND; `link_phase` and `line_out` are unchanged. The list of results is log 12, the host's
words log 7, the unchanged return buffer log 32, the latches of the reserved word log 19. -/
def Obligations.ReservedWordIsIllegalCommand : Prop :=
  ∀ (s : State) (w : CmdWord) (rest : List HostMove), s.phase = .idle → s.host = .command w :: rest →
    w &&& 0x30000000000#42 = 0x30000000000#42 →
    step s = .next { s with
      host := rest
      addrQ := w.extractLsb' 32 8
      valueQ := w.extractLsb' 0 32
      status := .illegalCommand
      done := true
      results := s.results ++ [⟨.illegalCommand, s.rdata⟩] }

/-- R159: an idle block to which the host presents nothing (log 7) holds everything it has; `done` falls
(log 25). That nothing arrives in the return buffer in an idle step is log 32. -/
def Obligations.IdleBlockHolds : Prop :=
  ∀ (s : State), s.phase = .idle →
    (s.host = [] → step s = .next { s with done := false }) ∧
    (∀ rest, s.host = .nothing :: rest → step s = .next { s with host := rest, done := false })

/-- R161, R163 (decisions D17, D27): `rst` cuts the running operation, or comes while idle: the block
holds its reset values, no `done` pulses, nothing is added to the trace. The values of the registers the
spec leaves unspecified are the model's (log 4), and so are the one line level of every reset (log 5),
the return buffer's and the target's content as the environment's choice (logs 8, 10), the host's moves
(log 7) and the emptied results (log 12). The count of driven Samples, 0 here, is log 31's. -/
def Obligations.ResetAbortsTheOperation : Prop :=
  ∀ (s : State) (m : EnvMove) (ans : List Answer) (moves : List HostMove),
    (s.busy = true ∧ s.answers = .rst m :: ans) ∨ (s.phase = .idle ∧ s.host = .rst m :: moves) →
    ∃ t, step s = .next t ∧ t.phase = .idle ∧ t.status = .ok ∧ t.linkPhase = .unknown ∧ t.done = false ∧
      t.trace = [] ∧ t.results = [] ∧ t.lineOut = Config.resetLines ∧ t.driven = 0 ∧ t.addrQ = 0 ∧ t.valueQ = 0 ∧
      t.acc = 0 ∧ t.bitcnt = 0 ∧ t.rdata = 0 ∧ t.pins = s.pins ∧ t.retBuf = m.arrived ∧
      t.target = s.target.map fun T => Memory.writeAll T m.changes

/-- R33 (decision D17): the reset values the spec gives. -/
def Obligations.ResetValues : Prop :=
  State.reset.phase = .idle ∧ State.reset.busy = false ∧ State.reset.status = .ok ∧
  State.reset.linkPhase = .unknown ∧ State.reset.lineOut = Config.resetLines ∧ State.reset.trace = []

/-- R20: the numbers of the completion codes. -/
def Obligations.StatusCodes : Prop :=
  statusCode .ok = 0 ∧ statusCode .transportUnavailable = 1 ∧ statusCode .transportIoError = 2 ∧
  statusCode .protocolDesyncSuspected = 3 ∧ statusCode .illegalCommand = 4

/-- The machine after reset meets the invariant. -/
def Obligations.ResetMeetsInvariant : Prop := State.reset.Inv

/-- Every step keeps the invariant: the trace holds only the six bursts and fetches of the asked size
(R71), the read loop stays below 32 with `acc` below `2 ^ bitcnt` (R18, R116), only the codes 0, 2 and 4
are produced (R20), the lines show a Sample of the alphabet (R64), inside a burst the one driven last
(R133), the last result is the one `done` reports (R129), and the ideal target keeps its canonical form.
The model's own choices in it: the lines' other level, one constant for every reset (log 5), the 0 of
`bitcnt` after `rst` (log 4), the list of results (log 12), the count of driven Samples (log 31) and the
form of the target's list (log 9). -/
def Obligations.StepKeepsInvariant : Prop :=
  ∀ (s t : State), s.Inv → step s = .next t → t.Inv
end

