-- ==== Sys2Proof/Laws/Encoder.lean ====
section
/-! SUPPORT. The bit-frame encoder: the frame one bit at a time, its length and its elements. -/

namespace Sys2Proof.Machine

@[simp] theorem bitPair_length (p : Pins) (b : Bool) : (bitPair p b).length = 2 := rfl

@[simp] theorem bitFrame_zero (p : Pins) (value : Nat) : bitFrame p value 0 = [] := rfl

/-- The last bit of a frame is bit 0 of the value. -/
theorem bitFrame_succ (p : Pins) (value width : Nat) :
    bitFrame p value (width + 1) = bitFrame p (value >>> 1) width ++ bitPair p (value.testBit 0) := by
  unfold bitFrame
  rw [List.range_succ, List.flatMap_append]
  congr 1
  · refine List.flatMap_congr fun i hi => ?_
    have : i < width := List.mem_range.mp hi
    rw [Nat.testBit_shiftRight]
    congr 2
    omega
  · simp

@[simp] theorem bitFrame_length (p : Pins) (value width : Nat) :
    (bitFrame p value width).length = 2 * width := by
  induction width generalizing value with
  | zero => rfl
  | succ n ih => rw [bitFrame_succ]; simp [ih]; omega

/-- R88: Samples `2i` and `2i + 1` are the pair of bit `width - 1 - i`. -/
theorem bitFrame_pair (p : Pins) (value width i : Nat) (hi : i < width) :
    (bitFrame p value width)[2 * i]? = (bitPair p (value.testBit (width - 1 - i)))[0]? ∧
    (bitFrame p value width)[2 * i + 1]? = (bitPair p (value.testBit (width - 1 - i)))[1]? := by
  induction width generalizing value with
  | zero => omega
  | succ n ih =>
    rw [bitFrame_succ]
    by_cases h : i < n
    · have h0 : 2 * i < (bitFrame p (value >>> 1) n).length := by simp; omega
      have h1 : 2 * i + 1 < (bitFrame p (value >>> 1) n).length := by simp; omega
      rw [List.getElem?_append_left h0, List.getElem?_append_left h1]
      have := ih (value >>> 1) h
      rw [Nat.testBit_shiftRight] at this
      rwa [show 1 + (n - 1 - i) = n + 1 - 1 - i by omega] at this
    · have hin : i = n := by omega
      subst hin
      rw [List.getElem?_append_right (by simp), List.getElem?_append_right (by simp)]
      simp

/-- Every Sample of a frame is a half of some bit-pair. -/
theorem mem_bitFrame {p : Pins} {value width : Nat} {x : Sample} (h : x ∈ bitFrame p value width) :
    ∃ b, x ∈ bitPair p b := by
  obtain ⟨i, -, hx⟩ := List.mem_flatMap.mp h
  exact ⟨_, hx⟩

/-- The last Sample of a frame is the clock-low Sample of bit 0. -/
theorem bitFrame_getLast? (p : Pins) (value width : Nat) :
    (bitFrame p value (width + 1)).getLast? = (bitPair p (value.testBit 0)).getLast? := by
  rw [bitFrame_succ, List.getLast?_append]; rfl

end Sys2Proof.Machine
end

