-- ==== Sys2Proof/Laws/Memory.lean ====
section
/-! SUPPORT. The target's register space: a read after a write, and the canonical form, which every
memory operation keeps. -/

namespace Sys2Proof.Machine

/-- Below every listed address nothing is listed. -/
theorem Memory.readAt_of_lt {m : Memory} {a : Nat} (h : ∀ c ∈ m, a < c.1) :
    Memory.readAt m a = Memory.unlisted := by
  induction m with
  | nil => rfl
  | cons c m ih =>
    have hc := h c (by simp)
    rw [Memory.readAt, if_neg (by omega)]
    exact ih fun d hd => h d (by simp [hd])

theorem Memory.readAt_cell (a x : Nat) (v : Value) (m : Memory) (h : ∀ c ∈ m, a < c.1) :
    Memory.readAt (Memory.cell a v ++ m) x = if x = a then v else Memory.readAt m x := by
  unfold Memory.cell
  split
  · rename_i hv
    split
    · subst_vars; exact Memory.readAt_of_lt h
    · rfl
  · rfl

/-- In a canonical memory a register reads as the value written to it, and every other register as
before. -/
theorem Memory.readAt_writeAt (m : Memory) (a x : Nat) (v : Value) (h : m.Pairwise fun c d => c.1 < d.1) :
    Memory.readAt (Memory.writeAt m a v) x = if x = a then v else Memory.readAt m x := by
  induction m with
  | nil => simpa [Memory.writeAt] using Memory.readAt_cell a x v [] (by simp)
  | cons c m ih =>
    obtain ⟨hc, hm⟩ := List.pairwise_cons.mp h
    rw [Memory.writeAt]
    split
    · refine Memory.readAt_cell a x v _ fun d hd => ?_
      rcases List.mem_cons.mp hd with rfl | hd
      · assumption
      · have := hc d hd; omega
    · split
      · rename_i hac
        rw [Memory.readAt_cell a x v m (by rw [hac]; exact hc)]
        by_cases hx : x = a
        · simp [hx]
        · rw [if_neg hx, if_neg hx, Memory.readAt, if_neg (by omega)]
      · rename_i h1 h2
        rw [Memory.readAt, ih hm, Memory.readAt]
        by_cases hx : x = c.1
        · rw [if_pos hx, if_pos hx, if_neg (by omega)]
        · rw [if_neg hx, if_neg hx]

/-- The cells of a memory after a write are the new cell and old cells. -/
theorem Memory.mem_writeAt {m : Memory} {a : Nat} {v : Value} {c : Nat × Value}
    (h : c ∈ Memory.writeAt m a v) : (c = (a, v) ∧ v ≠ Memory.unlisted) ∨ c ∈ m := by
  have cell : ∀ d ∈ Memory.cell a v, d = (a, v) ∧ v ≠ Memory.unlisted := by
    intro d hd
    unfold Memory.cell at hd
    split at hd
    · simp at hd
    · exact ⟨by simpa using hd, by assumption⟩
  induction m with
  | nil => exact .inl (cell c h)
  | cons d m ih =>
    rw [Memory.writeAt] at h
    split at h
    · rcases List.mem_append.mp h with h | h
      · exact .inl (cell c h)
      · exact .inr h
    · split at h
      · rcases List.mem_append.mp h with h | h
        · exact .inl (cell c h)
        · exact .inr (by simp [h])
      · rcases List.mem_cons.mp h with h | h
        · exact .inr (by simp [h])
        · rcases ih h with h | h
          · exact .inl h
          · exact .inr (by simp [h])

theorem Memory.writeAt_sorted (m : Memory) (a : Nat) (v : Value) (h : m.Pairwise fun c d => c.1 < d.1) :
    (Memory.writeAt m a v).Pairwise fun c d => c.1 < d.1 := by
  have put : ∀ m : Memory, m.Pairwise (fun c d => c.1 < d.1) → (∀ c ∈ m, a < c.1) →
      (Memory.cell a v ++ m).Pairwise fun c d => c.1 < d.1 := by
    intro m hm ha
    unfold Memory.cell
    split
    · simpa using hm
    · simpa using ⟨fun x y hxy => ha (x, y) hxy, hm⟩
  induction m with
  | nil => simpa [Memory.writeAt] using put [] (by simp) (by simp)
  | cons d m ih =>
    obtain ⟨hd, hm⟩ := List.pairwise_cons.mp h
    rw [Memory.writeAt]
    split
    · refine put _ h fun c hc => ?_
      rcases List.mem_cons.mp hc with rfl | hc
      · assumption
      · have := hd c hc; omega
    · split
      · rename_i hac
        exact put m hm (by rw [hac]; exact hd)
      · refine List.pairwise_cons.mpr ⟨fun c hc => ?_, ih hm⟩
        rcases Memory.mem_writeAt hc with ⟨rfl, -⟩ | hc
        · simp only; omega
        · exact hd c hc

/-- A write keeps the canonical form. -/
theorem Memory.write_wf {m : Memory} (h : Memory.Wf m) (a : Addr) (v : Value) : Memory.Wf (Memory.write m a v) := by
  refine ⟨Memory.writeAt_sorted m _ v h.1, fun c hc => ?_⟩
  rcases Memory.mem_writeAt hc with ⟨rfl, hv⟩ | hc
  · exact ⟨a.isLt, hv⟩
  · exact h.2 c hc

/-- Several writes keep the canonical form. -/
theorem Memory.writeAll_wf {m : Memory} (h : Memory.Wf m) (cs : List (Addr × Value)) :
    Memory.Wf (Memory.writeAll m cs) := by
  induction cs generalizing m with
  | nil => exact h
  | cons c cs ih => exact ih (Memory.write_wf h c.1 c.2)

/-- A register reads as the value written, every other register as before. -/
theorem Memory.read_write {m : Memory} (h : Memory.Wf m) (a x : Addr) (v : Value) :
    Memory.read (Memory.write m a v) x = if x = a then v else Memory.read m x := by
  rw [Memory.read, Memory.write, Memory.readAt_writeAt m _ _ v h.1]
  simp only [BitVec.toNat_inj, Memory.read]

/-- Two canonical memories that read alike are equal data. -/
theorem Memory.ext_of_readAt {m n : Memory} (hm : Memory.Wf m) (hn : Memory.Wf n)
    (h : ∀ a, Memory.readAt m a = Memory.readAt n a) : m = n := by
  induction m generalizing n with
  | nil =>
    cases n with
    | nil => rfl
    | cons d n =>
      have := h d.1
      rw [Memory.readAt, Memory.readAt, if_pos rfl] at this
      exact absurd this.symm (hn.2 d (by simp)).2
  | cons c m ih =>
    obtain ⟨hc, hms⟩ := List.pairwise_cons.mp hm.1
    cases n with
    | nil =>
      have : c.2 = Memory.unlisted := by simpa [Memory.readAt] using h c.1
      exact absurd this (hm.2 c (by simp)).2
    | cons d n =>
      obtain ⟨hd, hns⟩ := List.pairwise_cons.mp hn.1
      have hcd : c.1 = d.1 := by
        rcases lt_trichotomy c.1 d.1 with hlt | heq | hlt
        · have := h c.1
          rw [Memory.readAt, if_pos rfl,
            Memory.readAt_of_lt (m := d :: n) (by
              intro e he
              rcases List.mem_cons.mp he with rfl | he
              · exact hlt
              · have := hd e he; omega)] at this
          exact absurd this (hm.2 c (by simp)).2
        · exact heq
        · have := (h d.1).symm
          rw [Memory.readAt, if_pos rfl,
            Memory.readAt_of_lt (m := c :: m) (by
              intro e he
              rcases List.mem_cons.mp he with rfl | he
              · exact hlt
              · have := hc e he; omega)] at this
          exact absurd this (hn.2 d (by simp)).2
      have hval : c.2 = d.2 := by
        have := h c.1
        rwa [Memory.readAt, if_pos rfl, Memory.readAt, if_pos hcd] at this
      have : c = d := Prod.ext hcd hval
      subst this
      congr 1
      refine ih ⟨hms, fun e he => hm.2 e (by simp [he])⟩ ⟨hns, fun e he => hn.2 e (by simp [he])⟩ fun a => ?_
      by_cases ha : a = c.1
      · subst ha; rw [Memory.readAt_of_lt hc, Memory.readAt_of_lt hd]
      · have := h a
        rwa [Memory.readAt, if_neg ha, Memory.readAt, if_neg ha] at this

end Sys2Proof.Machine
end

