-- ==== Sys2Proof/Laws/State.lean ====
section
/-! SUPPORT. What each update of the state does to each field, one lemma per field, so that no
proof unfolds an update. -/

namespace Sys2Proof.Machine

variable (s : State)

@[simp] theorem State.withBuffer_phase (l : List Sample) : (s.withBuffer l).phase = s.phase := rfl
@[simp] theorem State.withBuffer_addrQ (l : List Sample) : (s.withBuffer l).addrQ = s.addrQ := rfl
@[simp] theorem State.withBuffer_valueQ (l : List Sample) : (s.withBuffer l).valueQ = s.valueQ := rfl
@[simp] theorem State.withBuffer_acc (l : List Sample) : (s.withBuffer l).acc = s.acc := rfl
@[simp] theorem State.withBuffer_bitcnt (l : List Sample) : (s.withBuffer l).bitcnt = s.bitcnt := rfl
@[simp] theorem State.withBuffer_status (l : List Sample) : (s.withBuffer l).status = s.status := rfl
@[simp] theorem State.withBuffer_rdata (l : List Sample) : (s.withBuffer l).rdata = s.rdata := rfl
@[simp] theorem State.withBuffer_linkPhase (l : List Sample) : (s.withBuffer l).linkPhase = s.linkPhase := rfl
@[simp] theorem State.withBuffer_lineOut (l : List Sample) : (s.withBuffer l).lineOut = s.lineOut := rfl
@[simp] theorem State.withBuffer_driven (l : List Sample) : (s.withBuffer l).driven = s.driven := rfl
@[simp] theorem State.withBuffer_done (l : List Sample) : (s.withBuffer l).done = s.done := rfl
@[simp] theorem State.withBuffer_trace (l : List Sample) : (s.withBuffer l).trace = s.trace := rfl
@[simp] theorem State.withBuffer_results (l : List Sample) : (s.withBuffer l).results = s.results := rfl
@[simp] theorem State.withBuffer_pins (l : List Sample) : (s.withBuffer l).pins = s.pins := rfl
@[simp] theorem State.withBuffer_retBuf (l : List Sample) : (s.withBuffer l).retBuf = l := rfl
@[simp] theorem State.withBuffer_target (l : List Sample) : (s.withBuffer l).target = s.target := rfl
@[simp] theorem State.withBuffer_answers (l : List Sample) : (s.withBuffer l).answers = s.answers := rfl
@[simp] theorem State.withBuffer_host (l : List Sample) : (s.withBuffer l).host = s.host := rfl
@[simp] theorem State.withBuffer_draws (l : List Sample) : (s.withBuffer l).draws = s.draws := rfl

@[simp] theorem State.goto_phase (p : Phase) : (s.goto p).phase = p := rfl
@[simp] theorem State.goto_addrQ (p : Phase) : (s.goto p).addrQ = s.addrQ := rfl
@[simp] theorem State.goto_valueQ (p : Phase) : (s.goto p).valueQ = s.valueQ := rfl
@[simp] theorem State.goto_acc (p : Phase) : (s.goto p).acc = s.acc := rfl
@[simp] theorem State.goto_bitcnt (p : Phase) : (s.goto p).bitcnt = s.bitcnt := rfl
@[simp] theorem State.goto_status (p : Phase) : (s.goto p).status = s.status := rfl
@[simp] theorem State.goto_rdata (p : Phase) : (s.goto p).rdata = s.rdata := rfl
@[simp] theorem State.goto_linkPhase (p : Phase) : (s.goto p).linkPhase = s.linkPhase := rfl
@[simp] theorem State.goto_lineOut (p : Phase) : (s.goto p).lineOut = s.lineOut := rfl
@[simp] theorem State.goto_driven (p : Phase) : (s.goto p).driven = s.driven := rfl
@[simp] theorem State.goto_done (p : Phase) : (s.goto p).done = s.done := rfl
@[simp] theorem State.goto_trace (p : Phase) : (s.goto p).trace = s.trace := rfl
@[simp] theorem State.goto_results (p : Phase) : (s.goto p).results = s.results := rfl
@[simp] theorem State.goto_pins (p : Phase) : (s.goto p).pins = s.pins := rfl
@[simp] theorem State.goto_retBuf (p : Phase) : (s.goto p).retBuf = s.retBuf := rfl
@[simp] theorem State.goto_target (p : Phase) : (s.goto p).target = s.target := rfl
@[simp] theorem State.goto_answers (p : Phase) : (s.goto p).answers = s.answers := rfl
@[simp] theorem State.goto_host (p : Phase) : (s.goto p).host = s.host := rfl
@[simp] theorem State.goto_draws (p : Phase) : (s.goto p).draws = s.draws := rfl

@[simp] theorem State.setLink_phase (l : LinkPhase) : (s.setLink l).phase = s.phase := rfl
@[simp] theorem State.setLink_addrQ (l : LinkPhase) : (s.setLink l).addrQ = s.addrQ := rfl
@[simp] theorem State.setLink_valueQ (l : LinkPhase) : (s.setLink l).valueQ = s.valueQ := rfl
@[simp] theorem State.setLink_acc (l : LinkPhase) : (s.setLink l).acc = s.acc := rfl
@[simp] theorem State.setLink_bitcnt (l : LinkPhase) : (s.setLink l).bitcnt = s.bitcnt := rfl
@[simp] theorem State.setLink_status (l : LinkPhase) : (s.setLink l).status = s.status := rfl
@[simp] theorem State.setLink_rdata (l : LinkPhase) : (s.setLink l).rdata = s.rdata := rfl
@[simp] theorem State.setLink_linkPhase (l : LinkPhase) : (s.setLink l).linkPhase = l := rfl
@[simp] theorem State.setLink_lineOut (l : LinkPhase) : (s.setLink l).lineOut = s.lineOut := rfl
@[simp] theorem State.setLink_driven (l : LinkPhase) : (s.setLink l).driven = s.driven := rfl
@[simp] theorem State.setLink_done (l : LinkPhase) : (s.setLink l).done = s.done := rfl
@[simp] theorem State.setLink_trace (l : LinkPhase) : (s.setLink l).trace = s.trace := rfl
@[simp] theorem State.setLink_results (l : LinkPhase) : (s.setLink l).results = s.results := rfl
@[simp] theorem State.setLink_pins (l : LinkPhase) : (s.setLink l).pins = s.pins := rfl
@[simp] theorem State.setLink_retBuf (l : LinkPhase) : (s.setLink l).retBuf = s.retBuf := rfl
@[simp] theorem State.setLink_target (l : LinkPhase) : (s.setLink l).target = s.target := rfl
@[simp] theorem State.setLink_answers (l : LinkPhase) : (s.setLink l).answers = s.answers := rfl
@[simp] theorem State.setLink_host (l : LinkPhase) : (s.setLink l).host = s.host := rfl
@[simp] theorem State.setLink_draws (l : LinkPhase) : (s.setLink l).draws = s.draws := rfl

@[simp] theorem State.setCount_phase (v : Value) (n : BitVec 6) : (s.setCount v n).phase = s.phase := rfl
@[simp] theorem State.setCount_addrQ (v : Value) (n : BitVec 6) : (s.setCount v n).addrQ = s.addrQ := rfl
@[simp] theorem State.setCount_valueQ (v : Value) (n : BitVec 6) : (s.setCount v n).valueQ = s.valueQ := rfl
@[simp] theorem State.setCount_acc (v : Value) (n : BitVec 6) : (s.setCount v n).acc = v := rfl
@[simp] theorem State.setCount_bitcnt (v : Value) (n : BitVec 6) : (s.setCount v n).bitcnt = n := rfl
@[simp] theorem State.setCount_status (v : Value) (n : BitVec 6) : (s.setCount v n).status = s.status := rfl
@[simp] theorem State.setCount_rdata (v : Value) (n : BitVec 6) : (s.setCount v n).rdata = s.rdata := rfl
@[simp] theorem State.setCount_linkPhase (v : Value) (n : BitVec 6) : (s.setCount v n).linkPhase = s.linkPhase := rfl
@[simp] theorem State.setCount_lineOut (v : Value) (n : BitVec 6) : (s.setCount v n).lineOut = s.lineOut := rfl
@[simp] theorem State.setCount_driven (v : Value) (n : BitVec 6) : (s.setCount v n).driven = s.driven := rfl
@[simp] theorem State.setCount_done (v : Value) (n : BitVec 6) : (s.setCount v n).done = s.done := rfl
@[simp] theorem State.setCount_trace (v : Value) (n : BitVec 6) : (s.setCount v n).trace = s.trace := rfl
@[simp] theorem State.setCount_results (v : Value) (n : BitVec 6) : (s.setCount v n).results = s.results := rfl
@[simp] theorem State.setCount_pins (v : Value) (n : BitVec 6) : (s.setCount v n).pins = s.pins := rfl
@[simp] theorem State.setCount_retBuf (v : Value) (n : BitVec 6) : (s.setCount v n).retBuf = s.retBuf := rfl
@[simp] theorem State.setCount_target (v : Value) (n : BitVec 6) : (s.setCount v n).target = s.target := rfl
@[simp] theorem State.setCount_answers (v : Value) (n : BitVec 6) : (s.setCount v n).answers = s.answers := rfl
@[simp] theorem State.setCount_host (v : Value) (n : BitVec 6) : (s.setCount v n).host = s.host := rfl
@[simp] theorem State.setCount_draws (v : Value) (n : BitVec 6) : (s.setCount v n).draws = s.draws := rfl

@[simp] theorem State.setRdata_phase (v : Value) : (s.setRdata v).phase = s.phase := rfl
@[simp] theorem State.setRdata_addrQ (v : Value) : (s.setRdata v).addrQ = s.addrQ := rfl
@[simp] theorem State.setRdata_valueQ (v : Value) : (s.setRdata v).valueQ = s.valueQ := rfl
@[simp] theorem State.setRdata_acc (v : Value) : (s.setRdata v).acc = s.acc := rfl
@[simp] theorem State.setRdata_bitcnt (v : Value) : (s.setRdata v).bitcnt = s.bitcnt := rfl
@[simp] theorem State.setRdata_status (v : Value) : (s.setRdata v).status = s.status := rfl
@[simp] theorem State.setRdata_rdata (v : Value) : (s.setRdata v).rdata = v := rfl
@[simp] theorem State.setRdata_linkPhase (v : Value) : (s.setRdata v).linkPhase = s.linkPhase := rfl
@[simp] theorem State.setRdata_lineOut (v : Value) : (s.setRdata v).lineOut = s.lineOut := rfl
@[simp] theorem State.setRdata_driven (v : Value) : (s.setRdata v).driven = s.driven := rfl
@[simp] theorem State.setRdata_done (v : Value) : (s.setRdata v).done = s.done := rfl
@[simp] theorem State.setRdata_trace (v : Value) : (s.setRdata v).trace = s.trace := rfl
@[simp] theorem State.setRdata_results (v : Value) : (s.setRdata v).results = s.results := rfl
@[simp] theorem State.setRdata_pins (v : Value) : (s.setRdata v).pins = s.pins := rfl
@[simp] theorem State.setRdata_retBuf (v : Value) : (s.setRdata v).retBuf = s.retBuf := rfl
@[simp] theorem State.setRdata_target (v : Value) : (s.setRdata v).target = s.target := rfl
@[simp] theorem State.setRdata_answers (v : Value) : (s.setRdata v).answers = s.answers := rfl
@[simp] theorem State.setRdata_host (v : Value) : (s.setRdata v).host = s.host := rfl
@[simp] theorem State.setRdata_draws (v : Value) : (s.setRdata v).draws = s.draws := rfl

@[simp] theorem State.latch_phase (a : Addr) (v : Value) : (s.latch a v).phase = s.phase := rfl
@[simp] theorem State.latch_addrQ (a : Addr) (v : Value) : (s.latch a v).addrQ = a := rfl
@[simp] theorem State.latch_valueQ (a : Addr) (v : Value) : (s.latch a v).valueQ = v := rfl
@[simp] theorem State.latch_acc (a : Addr) (v : Value) : (s.latch a v).acc = s.acc := rfl
@[simp] theorem State.latch_bitcnt (a : Addr) (v : Value) : (s.latch a v).bitcnt = s.bitcnt := rfl
@[simp] theorem State.latch_status (a : Addr) (v : Value) : (s.latch a v).status = s.status := rfl
@[simp] theorem State.latch_rdata (a : Addr) (v : Value) : (s.latch a v).rdata = s.rdata := rfl
@[simp] theorem State.latch_linkPhase (a : Addr) (v : Value) : (s.latch a v).linkPhase = s.linkPhase := rfl
@[simp] theorem State.latch_lineOut (a : Addr) (v : Value) : (s.latch a v).lineOut = s.lineOut := rfl
@[simp] theorem State.latch_driven (a : Addr) (v : Value) : (s.latch a v).driven = s.driven := rfl
@[simp] theorem State.latch_done (a : Addr) (v : Value) : (s.latch a v).done = s.done := rfl
@[simp] theorem State.latch_trace (a : Addr) (v : Value) : (s.latch a v).trace = s.trace := rfl
@[simp] theorem State.latch_results (a : Addr) (v : Value) : (s.latch a v).results = s.results := rfl
@[simp] theorem State.latch_pins (a : Addr) (v : Value) : (s.latch a v).pins = s.pins := rfl
@[simp] theorem State.latch_retBuf (a : Addr) (v : Value) : (s.latch a v).retBuf = s.retBuf := rfl
@[simp] theorem State.latch_target (a : Addr) (v : Value) : (s.latch a v).target = s.target := rfl
@[simp] theorem State.latch_answers (a : Addr) (v : Value) : (s.latch a v).answers = s.answers := rfl
@[simp] theorem State.latch_host (a : Addr) (v : Value) : (s.latch a v).host = s.host := rfl
@[simp] theorem State.latch_draws (a : Addr) (v : Value) : (s.latch a v).draws = s.draws := rfl

@[simp] theorem State.takeAnswer_phase : (s.takeAnswer).phase = s.phase := rfl
@[simp] theorem State.takeAnswer_addrQ : (s.takeAnswer).addrQ = s.addrQ := rfl
@[simp] theorem State.takeAnswer_valueQ : (s.takeAnswer).valueQ = s.valueQ := rfl
@[simp] theorem State.takeAnswer_acc : (s.takeAnswer).acc = s.acc := rfl
@[simp] theorem State.takeAnswer_bitcnt : (s.takeAnswer).bitcnt = s.bitcnt := rfl
@[simp] theorem State.takeAnswer_status : (s.takeAnswer).status = s.status := rfl
@[simp] theorem State.takeAnswer_rdata : (s.takeAnswer).rdata = s.rdata := rfl
@[simp] theorem State.takeAnswer_linkPhase : (s.takeAnswer).linkPhase = s.linkPhase := rfl
@[simp] theorem State.takeAnswer_lineOut : (s.takeAnswer).lineOut = s.lineOut := rfl
@[simp] theorem State.takeAnswer_driven : (s.takeAnswer).driven = s.driven := rfl
@[simp] theorem State.takeAnswer_done : (s.takeAnswer).done = false := rfl
@[simp] theorem State.takeAnswer_trace : (s.takeAnswer).trace = s.trace := rfl
@[simp] theorem State.takeAnswer_results : (s.takeAnswer).results = s.results := rfl
@[simp] theorem State.takeAnswer_pins : (s.takeAnswer).pins = s.pins := rfl
@[simp] theorem State.takeAnswer_retBuf : (s.takeAnswer).retBuf = s.retBuf := rfl
@[simp] theorem State.takeAnswer_target : (s.takeAnswer).target = s.target := rfl
@[simp] theorem State.takeAnswer_answers : (s.takeAnswer).answers = s.answers.tail := rfl
@[simp] theorem State.takeAnswer_host : (s.takeAnswer).host = s.host := rfl
@[simp] theorem State.takeAnswer_draws : (s.takeAnswer).draws = s.draws + 1 := rfl

@[simp] theorem State.record_phase (e : Event) : (s.record e).phase = s.phase := rfl
@[simp] theorem State.record_addrQ (e : Event) : (s.record e).addrQ = s.addrQ := rfl
@[simp] theorem State.record_valueQ (e : Event) : (s.record e).valueQ = s.valueQ := rfl
@[simp] theorem State.record_acc (e : Event) : (s.record e).acc = s.acc := rfl
@[simp] theorem State.record_bitcnt (e : Event) : (s.record e).bitcnt = s.bitcnt := rfl
@[simp] theorem State.record_status (e : Event) : (s.record e).status = s.status := rfl
@[simp] theorem State.record_rdata (e : Event) : (s.record e).rdata = s.rdata := rfl
@[simp] theorem State.record_linkPhase (e : Event) : (s.record e).linkPhase = s.linkPhase := rfl
@[simp] theorem State.record_lineOut (e : Event) : (s.record e).lineOut = s.lineOut := rfl
@[simp] theorem State.record_driven (e : Event) : (s.record e).driven = 0 := rfl
@[simp] theorem State.record_done (e : Event) : (s.record e).done = s.done := rfl
@[simp] theorem State.record_trace (e : Event) : (s.record e).trace = s.trace ++ [e] := rfl
@[simp] theorem State.record_results (e : Event) : (s.record e).results = s.results := rfl
@[simp] theorem State.record_pins (e : Event) : (s.record e).pins = s.pins := rfl
@[simp] theorem State.record_retBuf (e : Event) : (s.record e).retBuf = s.retBuf := rfl
@[simp] theorem State.record_target (e : Event) : (s.record e).target = s.target := rfl
@[simp] theorem State.record_answers (e : Event) : (s.record e).answers = s.answers := rfl
@[simp] theorem State.record_host (e : Event) : (s.record e).host = s.host := rfl
@[simp] theorem State.record_draws (e : Event) : (s.record e).draws = s.draws := rfl

@[simp] theorem State.driveLines_phase (l : List Sample) : (s.driveLines l).phase = s.phase := rfl
@[simp] theorem State.driveLines_addrQ (l : List Sample) : (s.driveLines l).addrQ = s.addrQ := rfl
@[simp] theorem State.driveLines_valueQ (l : List Sample) : (s.driveLines l).valueQ = s.valueQ := rfl
@[simp] theorem State.driveLines_acc (l : List Sample) : (s.driveLines l).acc = s.acc := rfl
@[simp] theorem State.driveLines_bitcnt (l : List Sample) : (s.driveLines l).bitcnt = s.bitcnt := rfl
@[simp] theorem State.driveLines_status (l : List Sample) : (s.driveLines l).status = s.status := rfl
@[simp] theorem State.driveLines_rdata (l : List Sample) : (s.driveLines l).rdata = s.rdata := rfl
@[simp] theorem State.driveLines_linkPhase (l : List Sample) : (s.driveLines l).linkPhase = s.linkPhase := rfl
@[simp] theorem State.driveLines_lineOut (l : List Sample) : (s.driveLines l).lineOut = l.getLast?.getD s.lineOut := rfl
@[simp] theorem State.driveLines_driven (l : List Sample) : (s.driveLines l).driven = s.driven := rfl
@[simp] theorem State.driveLines_done (l : List Sample) : (s.driveLines l).done = s.done := rfl
@[simp] theorem State.driveLines_trace (l : List Sample) : (s.driveLines l).trace = s.trace := rfl
@[simp] theorem State.driveLines_results (l : List Sample) : (s.driveLines l).results = s.results := rfl
@[simp] theorem State.driveLines_pins (l : List Sample) : (s.driveLines l).pins = s.pins := rfl
@[simp] theorem State.driveLines_retBuf (l : List Sample) : (s.driveLines l).retBuf = s.retBuf := rfl
@[simp] theorem State.driveLines_target (l : List Sample) : (s.driveLines l).target = s.target := rfl
@[simp] theorem State.driveLines_answers (l : List Sample) : (s.driveLines l).answers = s.answers := rfl
@[simp] theorem State.driveLines_host (l : List Sample) : (s.driveLines l).host = s.host := rfl
@[simp] theorem State.driveLines_draws (l : List Sample) : (s.driveLines l).draws = s.draws := rfl

@[simp] theorem State.driveFurther_phase (l : List Sample) (n : Nat) : (s.driveFurther l n).phase = s.phase := rfl
@[simp] theorem State.driveFurther_addrQ (l : List Sample) (n : Nat) : (s.driveFurther l n).addrQ = s.addrQ := rfl
@[simp] theorem State.driveFurther_valueQ (l : List Sample) (n : Nat) : (s.driveFurther l n).valueQ = s.valueQ := rfl
@[simp] theorem State.driveFurther_acc (l : List Sample) (n : Nat) : (s.driveFurther l n).acc = s.acc := rfl
@[simp] theorem State.driveFurther_bitcnt (l : List Sample) (n : Nat) : (s.driveFurther l n).bitcnt = s.bitcnt := rfl
@[simp] theorem State.driveFurther_status (l : List Sample) (n : Nat) : (s.driveFurther l n).status = s.status := rfl
@[simp] theorem State.driveFurther_rdata (l : List Sample) (n : Nat) : (s.driveFurther l n).rdata = s.rdata := rfl
@[simp] theorem State.driveFurther_linkPhase (l : List Sample) (n : Nat) : (s.driveFurther l n).linkPhase = s.linkPhase := rfl
@[simp] theorem State.driveFurther_lineOut (l : List Sample) (n : Nat) : (s.driveFurther l n).lineOut = ((l.drop s.driven).take n).getLast?.getD s.lineOut := rfl
@[simp] theorem State.driveFurther_driven (l : List Sample) (n : Nat) : (s.driveFurther l n).driven = s.driven + ((l.drop s.driven).take n).length := rfl
@[simp] theorem State.driveFurther_done (l : List Sample) (n : Nat) : (s.driveFurther l n).done = s.done := rfl
@[simp] theorem State.driveFurther_trace (l : List Sample) (n : Nat) : (s.driveFurther l n).trace = s.trace := rfl
@[simp] theorem State.driveFurther_results (l : List Sample) (n : Nat) : (s.driveFurther l n).results = s.results := rfl
@[simp] theorem State.driveFurther_pins (l : List Sample) (n : Nat) : (s.driveFurther l n).pins = s.pins := rfl
@[simp] theorem State.driveFurther_retBuf (l : List Sample) (n : Nat) : (s.driveFurther l n).retBuf = s.retBuf := rfl
@[simp] theorem State.driveFurther_target (l : List Sample) (n : Nat) : (s.driveFurther l n).target = s.target := rfl
@[simp] theorem State.driveFurther_answers (l : List Sample) (n : Nat) : (s.driveFurther l n).answers = s.answers := rfl
@[simp] theorem State.driveFurther_host (l : List Sample) (n : Nat) : (s.driveFurther l n).host = s.host := rfl
@[simp] theorem State.driveFurther_draws (l : List Sample) (n : Nat) : (s.driveFurther l n).draws = s.draws := rfl

@[simp] theorem State.keepWaiting_phase (t : Transaction) (n : Nat) (m : EnvMove) : (s.keepWaiting t n m).phase = s.phase := rfl
@[simp] theorem State.keepWaiting_addrQ (t : Transaction) (n : Nat) (m : EnvMove) : (s.keepWaiting t n m).addrQ = s.addrQ := rfl
@[simp] theorem State.keepWaiting_valueQ (t : Transaction) (n : Nat) (m : EnvMove) : (s.keepWaiting t n m).valueQ = s.valueQ := rfl
@[simp] theorem State.keepWaiting_acc (t : Transaction) (n : Nat) (m : EnvMove) : (s.keepWaiting t n m).acc = s.acc := rfl
@[simp] theorem State.keepWaiting_bitcnt (t : Transaction) (n : Nat) (m : EnvMove) : (s.keepWaiting t n m).bitcnt = s.bitcnt := rfl
@[simp] theorem State.keepWaiting_status (t : Transaction) (n : Nat) (m : EnvMove) : (s.keepWaiting t n m).status = s.status := rfl
@[simp] theorem State.keepWaiting_rdata (t : Transaction) (n : Nat) (m : EnvMove) : (s.keepWaiting t n m).rdata = s.rdata := rfl
@[simp] theorem State.keepWaiting_linkPhase (t : Transaction) (n : Nat) (m : EnvMove) : (s.keepWaiting t n m).linkPhase = s.linkPhase := rfl
@[simp] theorem State.keepWaiting_lineOut (t : Transaction) (n : Nat) (m : EnvMove) : (s.keepWaiting t n m).lineOut = ((t.samples.drop s.driven).take n).getLast?.getD s.lineOut := rfl
@[simp] theorem State.keepWaiting_driven (t : Transaction) (n : Nat) (m : EnvMove) : (s.keepWaiting t n m).driven = s.driven + ((t.samples.drop s.driven).take n).length := rfl
@[simp] theorem State.keepWaiting_done (t : Transaction) (n : Nat) (m : EnvMove) : (s.keepWaiting t n m).done = s.done := rfl
@[simp] theorem State.keepWaiting_trace (t : Transaction) (n : Nat) (m : EnvMove) : (s.keepWaiting t n m).trace = s.trace := rfl
@[simp] theorem State.keepWaiting_results (t : Transaction) (n : Nat) (m : EnvMove) : (s.keepWaiting t n m).results = s.results := rfl
@[simp] theorem State.keepWaiting_pins (t : Transaction) (n : Nat) (m : EnvMove) : (s.keepWaiting t n m).pins = s.pins := rfl
@[simp] theorem State.keepWaiting_retBuf (t : Transaction) (n : Nat) (m : EnvMove) : (s.keepWaiting t n m).retBuf = s.retBuf ++ m.arrived := rfl
@[simp] theorem State.keepWaiting_target (t : Transaction) (n : Nat) (m : EnvMove) : (s.keepWaiting t n m).target = s.target := rfl
@[simp] theorem State.keepWaiting_answers (t : Transaction) (n : Nat) (m : EnvMove) : (s.keepWaiting t n m).answers = s.answers := rfl
@[simp] theorem State.keepWaiting_host (t : Transaction) (n : Nat) (m : EnvMove) : (s.keepWaiting t n m).host = s.host := rfl
@[simp] theorem State.keepWaiting_draws (t : Transaction) (n : Nat) (m : EnvMove) : (s.keepWaiting t n m).draws = s.draws := rfl

@[simp] theorem State.endOperation_phase (c : Status) : (s.endOperation c).phase = .idle := rfl
@[simp] theorem State.endOperation_addrQ (c : Status) : (s.endOperation c).addrQ = s.addrQ := rfl
@[simp] theorem State.endOperation_valueQ (c : Status) : (s.endOperation c).valueQ = s.valueQ := rfl
@[simp] theorem State.endOperation_acc (c : Status) : (s.endOperation c).acc = s.acc := rfl
@[simp] theorem State.endOperation_bitcnt (c : Status) : (s.endOperation c).bitcnt = s.bitcnt := rfl
@[simp] theorem State.endOperation_status (c : Status) : (s.endOperation c).status = c := rfl
@[simp] theorem State.endOperation_rdata (c : Status) : (s.endOperation c).rdata = s.rdata := rfl
@[simp] theorem State.endOperation_linkPhase (c : Status) : (s.endOperation c).linkPhase = s.linkPhase := rfl
@[simp] theorem State.endOperation_lineOut (c : Status) : (s.endOperation c).lineOut = s.lineOut := rfl
@[simp] theorem State.endOperation_driven (c : Status) : (s.endOperation c).driven = s.driven := rfl
@[simp] theorem State.endOperation_done (c : Status) : (s.endOperation c).done = true := rfl
@[simp] theorem State.endOperation_trace (c : Status) : (s.endOperation c).trace = s.trace := rfl
@[simp] theorem State.endOperation_results (c : Status) : (s.endOperation c).results = s.results ++ [⟨c, s.rdata⟩] := rfl
@[simp] theorem State.endOperation_pins (c : Status) : (s.endOperation c).pins = s.pins := rfl
@[simp] theorem State.endOperation_retBuf (c : Status) : (s.endOperation c).retBuf = s.retBuf := rfl
@[simp] theorem State.endOperation_target (c : Status) : (s.endOperation c).target = s.target := rfl
@[simp] theorem State.endOperation_answers (c : Status) : (s.endOperation c).answers = s.answers := rfl
@[simp] theorem State.endOperation_host (c : Status) : (s.endOperation c).host = s.host := rfl
@[simp] theorem State.endOperation_draws (c : Status) : (s.endOperation c).draws = s.draws := rfl

@[simp] theorem State.rdataUnspecified_phase : (s.rdataUnspecified).phase = s.phase := rfl
@[simp] theorem State.rdataUnspecified_addrQ : (s.rdataUnspecified).addrQ = s.addrQ := rfl
@[simp] theorem State.rdataUnspecified_valueQ : (s.rdataUnspecified).valueQ = s.valueQ := rfl
@[simp] theorem State.rdataUnspecified_acc : (s.rdataUnspecified).acc = s.acc := rfl
@[simp] theorem State.rdataUnspecified_bitcnt : (s.rdataUnspecified).bitcnt = s.bitcnt := rfl
@[simp] theorem State.rdataUnspecified_status : (s.rdataUnspecified).status = s.status := rfl
@[simp] theorem State.rdataUnspecified_rdata : (s.rdataUnspecified).rdata = Config.freeRdata s.draws := rfl
@[simp] theorem State.rdataUnspecified_linkPhase : (s.rdataUnspecified).linkPhase = s.linkPhase := rfl
@[simp] theorem State.rdataUnspecified_lineOut : (s.rdataUnspecified).lineOut = s.lineOut := rfl
@[simp] theorem State.rdataUnspecified_driven : (s.rdataUnspecified).driven = s.driven := rfl
@[simp] theorem State.rdataUnspecified_done : (s.rdataUnspecified).done = s.done := rfl
@[simp] theorem State.rdataUnspecified_trace : (s.rdataUnspecified).trace = s.trace := rfl
@[simp] theorem State.rdataUnspecified_results : (s.rdataUnspecified).results = s.results := rfl
@[simp] theorem State.rdataUnspecified_pins : (s.rdataUnspecified).pins = s.pins := rfl
@[simp] theorem State.rdataUnspecified_retBuf : (s.rdataUnspecified).retBuf = s.retBuf := rfl
@[simp] theorem State.rdataUnspecified_target : (s.rdataUnspecified).target = s.target := rfl
@[simp] theorem State.rdataUnspecified_answers : (s.rdataUnspecified).answers = s.answers := rfl
@[simp] theorem State.rdataUnspecified_host : (s.rdataUnspecified).host = s.host := rfl
@[simp] theorem State.rdataUnspecified_draws : (s.rdataUnspecified).draws = s.draws := rfl

@[simp] theorem State.disturbTarget_phase (m : EnvMove) : (s.disturbTarget m).phase = s.phase := rfl
@[simp] theorem State.disturbTarget_addrQ (m : EnvMove) : (s.disturbTarget m).addrQ = s.addrQ := rfl
@[simp] theorem State.disturbTarget_valueQ (m : EnvMove) : (s.disturbTarget m).valueQ = s.valueQ := rfl
@[simp] theorem State.disturbTarget_acc (m : EnvMove) : (s.disturbTarget m).acc = s.acc := rfl
@[simp] theorem State.disturbTarget_bitcnt (m : EnvMove) : (s.disturbTarget m).bitcnt = s.bitcnt := rfl
@[simp] theorem State.disturbTarget_status (m : EnvMove) : (s.disturbTarget m).status = s.status := rfl
@[simp] theorem State.disturbTarget_rdata (m : EnvMove) : (s.disturbTarget m).rdata = s.rdata := rfl
@[simp] theorem State.disturbTarget_linkPhase (m : EnvMove) : (s.disturbTarget m).linkPhase = s.linkPhase := rfl
@[simp] theorem State.disturbTarget_lineOut (m : EnvMove) : (s.disturbTarget m).lineOut = s.lineOut := rfl
@[simp] theorem State.disturbTarget_driven (m : EnvMove) : (s.disturbTarget m).driven = s.driven := rfl
@[simp] theorem State.disturbTarget_done (m : EnvMove) : (s.disturbTarget m).done = s.done := rfl
@[simp] theorem State.disturbTarget_trace (m : EnvMove) : (s.disturbTarget m).trace = s.trace := rfl
@[simp] theorem State.disturbTarget_results (m : EnvMove) : (s.disturbTarget m).results = s.results := rfl
@[simp] theorem State.disturbTarget_pins (m : EnvMove) : (s.disturbTarget m).pins = s.pins := rfl
@[simp] theorem State.disturbTarget_retBuf (m : EnvMove) : (s.disturbTarget m).retBuf = s.retBuf := rfl
@[simp] theorem State.disturbTarget_target (m : EnvMove) : (s.disturbTarget m).target = s.target.map fun t => Memory.writeAll t m.changes := rfl
@[simp] theorem State.disturbTarget_answers (m : EnvMove) : (s.disturbTarget m).answers = s.answers := rfl
@[simp] theorem State.disturbTarget_host (m : EnvMove) : (s.disturbTarget m).host = s.host := rfl
@[simp] theorem State.disturbTarget_draws (m : EnvMove) : (s.disturbTarget m).draws = s.draws := rfl

@[simp] theorem State.accept_phase (p : Phase) (a : Addr) (v : Value) : (s.accept p a v).phase = p := rfl
@[simp] theorem State.accept_addrQ (p : Phase) (a : Addr) (v : Value) : (s.accept p a v).addrQ = a := rfl
@[simp] theorem State.accept_valueQ (p : Phase) (a : Addr) (v : Value) : (s.accept p a v).valueQ = v := rfl
@[simp] theorem State.accept_acc (p : Phase) (a : Addr) (v : Value) : (s.accept p a v).acc = s.acc := rfl
@[simp] theorem State.accept_bitcnt (p : Phase) (a : Addr) (v : Value) : (s.accept p a v).bitcnt = s.bitcnt := rfl
@[simp] theorem State.accept_status (p : Phase) (a : Addr) (v : Value) : (s.accept p a v).status = s.status := rfl
@[simp] theorem State.accept_rdata (p : Phase) (a : Addr) (v : Value) : (s.accept p a v).rdata = s.rdata := rfl
@[simp] theorem State.accept_linkPhase (p : Phase) (a : Addr) (v : Value) : (s.accept p a v).linkPhase = s.linkPhase := rfl
@[simp] theorem State.accept_lineOut (p : Phase) (a : Addr) (v : Value) : (s.accept p a v).lineOut = s.lineOut := rfl
@[simp] theorem State.accept_driven (p : Phase) (a : Addr) (v : Value) : (s.accept p a v).driven = 0 := rfl
@[simp] theorem State.accept_done (p : Phase) (a : Addr) (v : Value) : (s.accept p a v).done = false := rfl
@[simp] theorem State.accept_trace (p : Phase) (a : Addr) (v : Value) : (s.accept p a v).trace = s.trace := rfl
@[simp] theorem State.accept_results (p : Phase) (a : Addr) (v : Value) : (s.accept p a v).results = s.results := rfl
@[simp] theorem State.accept_pins (p : Phase) (a : Addr) (v : Value) : (s.accept p a v).pins = s.pins := rfl
@[simp] theorem State.accept_retBuf (p : Phase) (a : Addr) (v : Value) : (s.accept p a v).retBuf = s.retBuf := rfl
@[simp] theorem State.accept_target (p : Phase) (a : Addr) (v : Value) : (s.accept p a v).target = s.target := rfl
@[simp] theorem State.accept_answers (p : Phase) (a : Addr) (v : Value) : (s.accept p a v).answers = s.answers := rfl
@[simp] theorem State.accept_host (p : Phase) (a : Addr) (v : Value) : (s.accept p a v).host = s.host := rfl
@[simp] theorem State.accept_draws (p : Phase) (a : Addr) (v : Value) : (s.accept p a v).draws = s.draws := rfl

@[simp] theorem State.raiseIoError_phase (m : EnvMove) : (s.raiseIoError m).phase = .idle := rfl
@[simp] theorem State.raiseIoError_addrQ (m : EnvMove) : (s.raiseIoError m).addrQ = s.addrQ := rfl
@[simp] theorem State.raiseIoError_valueQ (m : EnvMove) : (s.raiseIoError m).valueQ = s.valueQ := rfl
@[simp] theorem State.raiseIoError_acc (m : EnvMove) : (s.raiseIoError m).acc = s.acc := rfl
@[simp] theorem State.raiseIoError_bitcnt (m : EnvMove) : (s.raiseIoError m).bitcnt = s.bitcnt := rfl
@[simp] theorem State.raiseIoError_status (m : EnvMove) : (s.raiseIoError m).status = .transportIoError := rfl
@[simp] theorem State.raiseIoError_rdata (m : EnvMove) : (s.raiseIoError m).rdata = Config.freeRdata s.draws := rfl
@[simp] theorem State.raiseIoError_linkPhase (m : EnvMove) : (s.raiseIoError m).linkPhase = .unknown := rfl
@[simp] theorem State.raiseIoError_lineOut (m : EnvMove) : (s.raiseIoError m).lineOut = s.lineOut := rfl
@[simp] theorem State.raiseIoError_driven (m : EnvMove) : (s.raiseIoError m).driven = s.driven := rfl
@[simp] theorem State.raiseIoError_done (m : EnvMove) : (s.raiseIoError m).done = true := rfl
@[simp] theorem State.raiseIoError_trace (m : EnvMove) : (s.raiseIoError m).trace = s.trace := rfl
@[simp] theorem State.raiseIoError_results (m : EnvMove) : (s.raiseIoError m).results = s.results ++ [⟨.transportIoError, Config.freeRdata s.draws⟩] := rfl
@[simp] theorem State.raiseIoError_pins (m : EnvMove) : (s.raiseIoError m).pins = s.pins := rfl
@[simp] theorem State.raiseIoError_retBuf (m : EnvMove) : (s.raiseIoError m).retBuf = s.retBuf := rfl
@[simp] theorem State.raiseIoError_target (m : EnvMove) : (s.raiseIoError m).target = s.target.map fun t => Memory.writeAll t m.changes := rfl
@[simp] theorem State.raiseIoError_answers (m : EnvMove) : (s.raiseIoError m).answers = s.answers := rfl
@[simp] theorem State.raiseIoError_host (m : EnvMove) : (s.raiseIoError m).host = s.host := rfl
@[simp] theorem State.raiseIoError_draws (m : EnvMove) : (s.raiseIoError m).draws = s.draws := rfl

@[simp] theorem State.applyReset_phase (m : EnvMove) : (s.applyReset m).phase = .idle := rfl
@[simp] theorem State.applyReset_addrQ (m : EnvMove) : (s.applyReset m).addrQ = 0 := rfl
@[simp] theorem State.applyReset_valueQ (m : EnvMove) : (s.applyReset m).valueQ = 0 := rfl
@[simp] theorem State.applyReset_acc (m : EnvMove) : (s.applyReset m).acc = 0 := rfl
@[simp] theorem State.applyReset_bitcnt (m : EnvMove) : (s.applyReset m).bitcnt = 0 := rfl
@[simp] theorem State.applyReset_status (m : EnvMove) : (s.applyReset m).status = .ok := rfl
@[simp] theorem State.applyReset_rdata (m : EnvMove) : (s.applyReset m).rdata = 0 := rfl
@[simp] theorem State.applyReset_linkPhase (m : EnvMove) : (s.applyReset m).linkPhase = .unknown := rfl
@[simp] theorem State.applyReset_lineOut (m : EnvMove) : (s.applyReset m).lineOut = Config.resetLines := rfl
@[simp] theorem State.applyReset_driven (m : EnvMove) : (s.applyReset m).driven = 0 := rfl
@[simp] theorem State.applyReset_done (m : EnvMove) : (s.applyReset m).done = false := rfl
@[simp] theorem State.applyReset_trace (m : EnvMove) : (s.applyReset m).trace = [] := rfl
@[simp] theorem State.applyReset_results (m : EnvMove) : (s.applyReset m).results = [] := rfl
@[simp] theorem State.applyReset_pins (m : EnvMove) : (s.applyReset m).pins = s.pins := rfl
@[simp] theorem State.applyReset_retBuf (m : EnvMove) : (s.applyReset m).retBuf = m.arrived := rfl
@[simp] theorem State.applyReset_target (m : EnvMove) : (s.applyReset m).target = s.target.map fun t => Memory.writeAll t m.changes := rfl
@[simp] theorem State.applyReset_answers (m : EnvMove) : (s.applyReset m).answers = s.answers := rfl
@[simp] theorem State.applyReset_host (m : EnvMove) : (s.applyReset m).host = s.host := rfl
@[simp] theorem State.applyReset_draws (m : EnvMove) : (s.applyReset m).draws = s.draws := rfl

@[simp] theorem State.rejectCommand_phase (w : CmdWord) : (s.rejectCommand w).phase = .idle := rfl
@[simp] theorem State.rejectCommand_addrQ (w : CmdWord) : (s.rejectCommand w).addrQ = addrField w := rfl
@[simp] theorem State.rejectCommand_valueQ (w : CmdWord) : (s.rejectCommand w).valueQ = valueField w := rfl
@[simp] theorem State.rejectCommand_acc (w : CmdWord) : (s.rejectCommand w).acc = s.acc := rfl
@[simp] theorem State.rejectCommand_bitcnt (w : CmdWord) : (s.rejectCommand w).bitcnt = s.bitcnt := rfl
@[simp] theorem State.rejectCommand_status (w : CmdWord) : (s.rejectCommand w).status = .illegalCommand := rfl
@[simp] theorem State.rejectCommand_rdata (w : CmdWord) : (s.rejectCommand w).rdata = s.rdata := rfl
@[simp] theorem State.rejectCommand_linkPhase (w : CmdWord) : (s.rejectCommand w).linkPhase = s.linkPhase := rfl
@[simp] theorem State.rejectCommand_lineOut (w : CmdWord) : (s.rejectCommand w).lineOut = s.lineOut := rfl
@[simp] theorem State.rejectCommand_driven (w : CmdWord) : (s.rejectCommand w).driven = s.driven := rfl
@[simp] theorem State.rejectCommand_done (w : CmdWord) : (s.rejectCommand w).done = true := rfl
@[simp] theorem State.rejectCommand_trace (w : CmdWord) : (s.rejectCommand w).trace = s.trace := rfl
@[simp] theorem State.rejectCommand_results (w : CmdWord) : (s.rejectCommand w).results = s.results ++ [⟨.illegalCommand, s.rdata⟩] := rfl
@[simp] theorem State.rejectCommand_pins (w : CmdWord) : (s.rejectCommand w).pins = s.pins := rfl
@[simp] theorem State.rejectCommand_retBuf (w : CmdWord) : (s.rejectCommand w).retBuf = s.retBuf := rfl
@[simp] theorem State.rejectCommand_target (w : CmdWord) : (s.rejectCommand w).target = s.target := rfl
@[simp] theorem State.rejectCommand_answers (w : CmdWord) : (s.rejectCommand w).answers = s.answers := rfl
@[simp] theorem State.rejectCommand_host (w : CmdWord) : (s.rejectCommand w).host = s.host := rfl
@[simp] theorem State.rejectCommand_draws (w : CmdWord) : (s.rejectCommand w).draws = s.draws := rfl

@[simp] theorem State.idleCycle_phase : (s.idleCycle).phase = s.phase := rfl
@[simp] theorem State.idleCycle_addrQ : (s.idleCycle).addrQ = s.addrQ := rfl
@[simp] theorem State.idleCycle_valueQ : (s.idleCycle).valueQ = s.valueQ := rfl
@[simp] theorem State.idleCycle_acc : (s.idleCycle).acc = s.acc := rfl
@[simp] theorem State.idleCycle_bitcnt : (s.idleCycle).bitcnt = s.bitcnt := rfl
@[simp] theorem State.idleCycle_status : (s.idleCycle).status = s.status := rfl
@[simp] theorem State.idleCycle_rdata : (s.idleCycle).rdata = s.rdata := rfl
@[simp] theorem State.idleCycle_linkPhase : (s.idleCycle).linkPhase = s.linkPhase := rfl
@[simp] theorem State.idleCycle_lineOut : (s.idleCycle).lineOut = s.lineOut := rfl
@[simp] theorem State.idleCycle_driven : (s.idleCycle).driven = s.driven := rfl
@[simp] theorem State.idleCycle_done : (s.idleCycle).done = false := rfl
@[simp] theorem State.idleCycle_trace : (s.idleCycle).trace = s.trace := rfl
@[simp] theorem State.idleCycle_results : (s.idleCycle).results = s.results := rfl
@[simp] theorem State.idleCycle_pins : (s.idleCycle).pins = s.pins := rfl
@[simp] theorem State.idleCycle_retBuf : (s.idleCycle).retBuf = s.retBuf := rfl
@[simp] theorem State.idleCycle_target : (s.idleCycle).target = s.target := rfl
@[simp] theorem State.idleCycle_answers : (s.idleCycle).answers = s.answers := rfl
@[simp] theorem State.idleCycle_host : (s.idleCycle).host = s.host := rfl
@[simp] theorem State.idleCycle_draws : (s.idleCycle).draws = s.draws := rfl

@[simp] theorem State.takeMove_phase : (s.takeMove).phase = s.phase := rfl
@[simp] theorem State.takeMove_addrQ : (s.takeMove).addrQ = s.addrQ := rfl
@[simp] theorem State.takeMove_valueQ : (s.takeMove).valueQ = s.valueQ := rfl
@[simp] theorem State.takeMove_acc : (s.takeMove).acc = s.acc := rfl
@[simp] theorem State.takeMove_bitcnt : (s.takeMove).bitcnt = s.bitcnt := rfl
@[simp] theorem State.takeMove_status : (s.takeMove).status = s.status := rfl
@[simp] theorem State.takeMove_rdata : (s.takeMove).rdata = s.rdata := rfl
@[simp] theorem State.takeMove_linkPhase : (s.takeMove).linkPhase = s.linkPhase := rfl
@[simp] theorem State.takeMove_lineOut : (s.takeMove).lineOut = s.lineOut := rfl
@[simp] theorem State.takeMove_driven : (s.takeMove).driven = s.driven := rfl
@[simp] theorem State.takeMove_done : (s.takeMove).done = s.done := rfl
@[simp] theorem State.takeMove_trace : (s.takeMove).trace = s.trace := rfl
@[simp] theorem State.takeMove_results : (s.takeMove).results = s.results := rfl
@[simp] theorem State.takeMove_pins : (s.takeMove).pins = s.pins := rfl
@[simp] theorem State.takeMove_retBuf : (s.takeMove).retBuf = s.retBuf := rfl
@[simp] theorem State.takeMove_target : (s.takeMove).target = s.target := rfl
@[simp] theorem State.takeMove_answers : (s.takeMove).answers = s.answers := rfl
@[simp] theorem State.takeMove_host : (s.takeMove).host = s.host.tail := rfl
@[simp] theorem State.takeMove_draws : (s.takeMove).draws = s.draws := rfl

@[simp] theorem State.present_phase (w : CmdWord) : (s.present w).phase = .idle := rfl
@[simp] theorem State.present_addrQ (w : CmdWord) : (s.present w).addrQ = s.addrQ := rfl
@[simp] theorem State.present_valueQ (w : CmdWord) : (s.present w).valueQ = s.valueQ := rfl
@[simp] theorem State.present_acc (w : CmdWord) : (s.present w).acc = s.acc := rfl
@[simp] theorem State.present_bitcnt (w : CmdWord) : (s.present w).bitcnt = s.bitcnt := rfl
@[simp] theorem State.present_status (w : CmdWord) : (s.present w).status = s.status := rfl
@[simp] theorem State.present_rdata (w : CmdWord) : (s.present w).rdata = s.rdata := rfl
@[simp] theorem State.present_linkPhase (w : CmdWord) : (s.present w).linkPhase = s.linkPhase := rfl
@[simp] theorem State.present_lineOut (w : CmdWord) : (s.present w).lineOut = s.lineOut := rfl
@[simp] theorem State.present_driven (w : CmdWord) : (s.present w).driven = s.driven := rfl
@[simp] theorem State.present_done (w : CmdWord) : (s.present w).done = s.done := rfl
@[simp] theorem State.present_trace (w : CmdWord) : (s.present w).trace = s.trace := rfl
@[simp] theorem State.present_results (w : CmdWord) : (s.present w).results = s.results := rfl
@[simp] theorem State.present_pins (w : CmdWord) : (s.present w).pins = s.pins := rfl
@[simp] theorem State.present_retBuf (w : CmdWord) : (s.present w).retBuf = s.retBuf := rfl
@[simp] theorem State.present_target (w : CmdWord) : (s.present w).target = s.target := rfl
@[simp] theorem State.present_answers (w : CmdWord) : (s.present w).answers = s.answers := rfl
@[simp] theorem State.present_host (w : CmdWord) : (s.present w).host = .command w :: s.host := rfl
@[simp] theorem State.present_draws (w : CmdWord) : (s.present w).draws = s.draws := rfl

end Sys2Proof.Machine
end

