-- ==== Sys2Proof/Laws/Ops.lean ====
section
/-! SUPPORT. What each shared operation can do, said once: the burst at the end of which the lines
rest, one transaction, the run of an operation, and the step. -/

namespace Sys2Proof.Machine

/-! ### Where the lines rest after a burst -/

@[simp] theorem burstSY1_getLast? (p : Pins) : (burstSY1 p).getLast? = some (B1L p) := by
  simp [burstSY1, framingPair, B1L, List.getLast?_append]

@[simp] theorem burstSY2_getLast? (p : Pins) : (burstSY2 p).getLast? = some (TCL p) := by
  simp [burstSY2, commitTrailer, TCL, List.getLast?_append]

@[simp] theorem burstWR1_getLast? (p : Pins) (v : Value) :
    (burstWR1 p v).getLast? = some (if v.getLsbD 0 then B1L p else B0L p) := by
  rw [burstWR1, dataW, bitFrame_getLast?]
  simp only [bitPair, B1L, B0L, BitVec.getLsbD, List.getLast?_cons_cons, List.getLast?_singleton]
  split <;> simp_all

@[simp] theorem burstWR2_getLast? (p : Pins) (a : Addr) : (burstWR2 p a).getLast? = some (TCL p) := by
  simp [burstWR2, commitTrailer, TCL, List.getLast?_append]

@[simp] theorem burstRD1_getLast? (p : Pins) (a : Addr) : (burstRD1 p a).getLast? = some (TRL p) := by
  simp [burstRD1, readTrailer, TRL, List.getLast?_append]

@[simp] theorem burstRDP_getLast? (p : Pins) : (burstRDP p).getLast? = some (B0L p) := by
  simp [burstRDP, B0L]

/-! ### The phase and its transaction -/

@[simp] theorem State.busy_eq_true {s : State} : s.busy = true ↔ s.phase ≠ .idle := by simp [State.busy]

@[simp] theorem State.busy_eq_false {s : State} : s.busy = false ↔ s.phase = .idle := by simp [State.busy]

@[simp] theorem State.cmdReady_eq_true {s : State} : s.cmdReady = true ↔ s.phase = .idle := by
  simp [State.cmdReady, State.busy]

/-- A phase has a transaction exactly while the block is busy (R14). -/
theorem State.transaction_isSome {s : State} (h : s.phase ≠ .idle) : ∃ t, s.transaction = some t := by
  unfold State.transaction
  cases hp : s.phase <;> simp_all [transactionOf]

theorem State.nextAnswer_cons {s : State} {a : Answer} {rest : List Answer} (h : s.answers = a :: rest) :
    s.nextAnswer = a := by simp [State.nextAnswer, h]

/-! ### The Samples of a burst, driven in order (R133) -/

@[simp] theorem Transaction.samples_purge : Transaction.purge.samples = [] := rfl

@[simp] theorem Transaction.samples_emit (burst : List Sample) : (Transaction.emit burst).samples = burst := rfl

@[simp] theorem Transaction.samples_fetch (n : Nat) : (Transaction.fetch n).samples = [] := rfl

@[simp] theorem State.driveFurther_nil (s : State) (n : Nat) : s.driveFurther [] n = s := by
  simp [State.driveFurther, State.driveLines]

@[simp] theorem State.driveFurther_zero (s : State) (burst : List Sample) : s.driveFurther burst 0 = s := by
  simp [State.driveFurther, State.driveLines]

/-- Samples driven in two goes are driven in one. -/
theorem State.driveFurther_add (s : State) (burst : List Sample) (m n : Nat) :
    (s.driveFurther burst m).driveFurther burst n = s.driveFurther burst (m + n) := by
  have h : burst.drop (s.driven + ((burst.drop s.driven).take m).length) = (burst.drop s.driven).drop m := by
    rw [List.drop_drop, List.length_take, List.length_drop]
    rcases Nat.le_total m (burst.length - s.driven) with hm | hm
    · rw [Nat.min_eq_left hm]
    · rw [List.drop_eq_nil_of_le (by omega), List.drop_eq_nil_of_le (by omega)]
  apply State.ext <;> simp only [State.driveFurther, State.driveLines, h, List.take_add, List.length_append,
    List.getLast?_append, Nat.add_assoc]
  cases ((burst.drop s.driven).drop m |>.take n).getLast? <;> rfl

/-- Further Samples of the transaction in progress, and what they leave on the lines. -/
theorem State.linesDuring_eq {s : State} {t : Transaction} (h : s.transaction = some t) (k : Nat) :
    s.linesDuring k = (((t.samples.drop s.driven).take k).getLast?).getD s.lineOut := by
  simp [State.linesDuring, h, State.driveFurther, State.driveLines]

@[simp] theorem State.linesDuring_zero (s : State) : s.linesDuring 0 = s.lineOut := by
  unfold State.linesDuring
  split <;> simp

/-! ### One transaction -/

section transact
variable {s : State} {t : Transaction}

theorem State.transact_completes {m : EnvMove} (h : s.transaction = some t) (ha : s.nextAnswer = .completes m) :
    s.transact = s.takeAnswer.complete t m := by simp [State.transact, h, ha]

theorem State.transact_error {n : Nat} {m : EnvMove} (h : s.transaction = some t) (ha : s.nextAnswer = .error n m) :
    s.transact = s.takeAnswer.failTransaction t n m := by simp [State.transact, h, ha]

theorem State.transact_short {n : Nat} {m : EnvMove} (h : s.transaction = some t) (ha : s.nextAnswer = .short n m) :
    s.transact = s.takeAnswer.failTransaction t (min n (t.shortCount s.driven)) m := by simp [State.transact, h, ha]

theorem State.transact_notYet {n : Nat} {m : EnvMove} (h : s.transaction = some t) (ha : s.nextAnswer = .notYet n m) :
    s.transact = s.takeAnswer.keepWaiting t n m := by simp [State.transact, h, ha]

theorem State.transact_rst {m : EnvMove} (h : s.phase ≠ .idle) (ha : s.nextAnswer = .rst m) :
    s.transact = s.takeAnswer.applyReset m := by
  obtain ⟨t, ht⟩ := State.transaction_isSome h
  simp [State.transact, ht, ha]

end transact

/-- R142: a fetch that finds fewer Samples than it asks for is a failed transaction. -/
theorem State.complete_fetch_short {s : State} {n : Nat} {m : EnvMove} (h : (s.retBuf ++ m.arrived).length < n) :
    s.complete (.fetch n) m = s.failTransaction (.fetch n) (s.retBuf ++ m.arrived).length m := if_pos h

/-- R29, R125: a fetch that finds enough takes its Samples from the head of the return buffer. -/
theorem State.complete_fetch {s : State} {n : Nat} {m : EnvMove} (h : n ≤ (s.retBuf ++ m.arrived).length) :
    s.complete (.fetch n) m =
      ((s.withBuffer ((s.retBuf ++ m.arrived).drop n)).record
        (.read n (s.answeredByTarget ((s.retBuf ++ m.arrived).take n)))).advance
          (s.answeredByTarget ((s.retBuf ++ m.arrived).take n)) m := if_neg (not_lt.mpr h)

/-- Everything one transaction of a busy block can do: wait (R132), be cut by `rst` (R163), fail with
part of its effect (R128), complete a purge, complete a burst, or complete a fetch (R125). -/
theorem State.transact_cases (s : State) (h : s.phase ≠ .idle) :
    (∃ t n m, s.nextAnswer = .notYet n m ∧ s.transaction = some t ∧
      s.transact = s.takeAnswer.keepWaiting t n m) ∨
    (∃ m, s.nextAnswer = .rst m ∧ s.transact = s.takeAnswer.applyReset m) ∨
    (∃ t n m, s.transaction = some t ∧ s.transact = (s.takeAnswer.partialEffect t n m).raiseIoError m) ∨
    (∃ m, s.transaction = some .purge ∧
      s.transact = ((s.takeAnswer.withBuffer []).record .purge).advance [] m) ∨
    (∃ (l : List Sample) (m : EnvMove), s.transaction = some (.emit l) ∧ s.transact =
      (((s.takeAnswer.withBuffer (s.retBuf ++ m.arrived)).driveLines l).record (.write l)).advance [] m) ∨
    (∃ (n : Nat) (m : EnvMove) (fetched : List Sample), s.transaction = some (.fetch n) ∧ n ≤ (s.retBuf ++ m.arrived).length ∧
      fetched = s.takeAnswer.answeredByTarget ((s.retBuf ++ m.arrived).take n) ∧ s.transact =
      ((s.takeAnswer.withBuffer ((s.retBuf ++ m.arrived).drop n)).record (.read n fetched)).advance fetched m) := by
  obtain ⟨t, ht⟩ := State.transaction_isSome h
  cases ha : s.nextAnswer with
  | notYet n m => exact .inl ⟨t, n, m, rfl, ht, State.transact_notYet ht ha⟩
  | rst m => exact .inr (.inl ⟨m, rfl, State.transact_rst h ha⟩)
  | error n m => exact .inr (.inr (.inl ⟨t, n, m, ht, State.transact_error ht ha⟩))
  | short n m => exact .inr (.inr (.inl ⟨t, _, m, ht, State.transact_short ht ha⟩))
  | completes m =>
    rw [State.transact_completes ht ha]
    cases t with
    | purge => exact .inr (.inr (.inr (.inl ⟨m, ht, rfl⟩)))
    | emit l => exact .inr (.inr (.inr (.inr (.inl ⟨l, m, ht, rfl⟩))))
    | fetch n =>
      by_cases hn : (s.retBuf ++ m.arrived).length < n
      · rw [State.complete_fetch_short (s := s.takeAnswer) hn]
        exact .inr (.inr (.inl ⟨_, _, m, ht, rfl⟩))
      · rw [State.complete_fetch (s := s.takeAnswer) (not_lt.mp hn)]
        exact .inr (.inr (.inr (.inr (.inr ⟨n, m, _, ht, not_lt.mp hn, rfl, rfl⟩))))

/-- The ideal target changes bits, never the number of Samples fetched. -/
@[simp] theorem State.answeredByTarget_length (s : State) (l : List Sample) :
    (s.answeredByTarget l).length = l.length := by
  unfold State.answeredByTarget
  split <;> rfl

theorem State.answeredByTarget_of_none {s : State} (h : s.target = none) (l : List Sample) :
    s.answeredByTarget l = l := by
  unfold State.answeredByTarget
  split
  · simp_all
  · rfl

/-- The round-trip leads to the next pulse or ends the READ (R125, R127). -/
theorem State.afterRoundTrip_cases (s : State) (l : List Sample) :
    ((s.bitcnt + 1).toNat < 32 ∧ s.afterRoundTrip l =
      (s.setCount (accumulate s.acc (receivedBit s.pins l)) (s.bitcnt + 1)).goto .rdPulse) ∨
    (32 ≤ (s.bitcnt + 1).toNat ∧ s.afterRoundTrip l =
      ((s.setCount (accumulate s.acc (receivedBit s.pins l)) (s.bitcnt + 1)).setRdata
        (accumulate s.acc (receivedBit s.pins l))).endOperation .ok) := by
  by_cases h : (s.bitcnt + 1).toNat < 32
  · exact .inl ⟨h, if_pos h⟩
  · exact .inr ⟨not_lt.mp h, if_neg h⟩

/-- What the register updates of R125 never touch. -/
theorem State.advance_keeps (s : State) (l : List Sample) (m : EnvMove) :
    (s.advance l m).pins = s.pins ∧ (s.advance l m).host = s.host ∧ (s.advance l m).trace = s.trace ∧
    (s.advance l m).answers = s.answers ∧ (s.advance l m).draws = s.draws ∧ (s.advance l m).retBuf = s.retBuf ∧
    (s.advance l m).lineOut = s.lineOut ∧ (s.advance l m).addrQ = s.addrQ ∧ (s.advance l m).valueQ = s.valueQ := by
  unfold State.advance State.commitToTarget
  split <;> (try split) <;> (try simp)
  rcases State.afterRoundTrip_cases s l with ⟨-, h⟩ | ⟨-, h⟩ <;> simp [h]

@[simp] theorem State.advance_driven (s : State) (l : List Sample) (m : EnvMove) :
    (s.advance l m).driven = s.driven := by
  unfold State.advance State.commitToTarget
  split <;> (try split) <;> (try simp)
  rcases State.afterRoundTrip_cases s l with ⟨-, h⟩ | ⟨-, h⟩ <;> simp [h]

/-- The register updates of R125 end the operation with OK and one result, or leave it running. -/
theorem State.advance_ends (s : State) (l : List Sample) (m : EnvMove) (hd : s.done = false) (hb : s.phase ≠ .idle) :
    ((s.advance l m).done = true ∧ (s.advance l m).phase = .idle ∧ (s.advance l m).status = .ok ∧
      (s.advance l m).results = s.results ++ [⟨(s.advance l m).status, (s.advance l m).rdata⟩]) ∨
    ((s.advance l m).done = false ∧ (s.advance l m).phase ≠ .idle ∧ (s.advance l m).results = s.results ∧
      (s.advance l m).status = s.status ∧ (s.advance l m).rdata = s.rdata) := by
  unfold State.advance State.commitToTarget
  split <;> (try split) <;> (try simp_all)
  rcases State.afterRoundTrip_cases s l with ⟨-, h⟩ | ⟨-, h⟩ <;> simp [h, hd]

/-- What the environment's part of a failed transaction leaves alone. -/
theorem State.partialEffect_keeps (s : State) (t : Transaction) (n : Nat) (m : EnvMove) :
    (s.partialEffect t n m).pins = s.pins ∧ (s.partialEffect t n m).host = s.host ∧
    (∃ e, (s.partialEffect t n m).trace = s.trace ++ [e]) ∧ (s.partialEffect t n m).results = s.results ∧
    (s.partialEffect t n m).draws = s.draws ∧ (s.partialEffect t n m).acc = s.acc ∧
    (s.partialEffect t n m).bitcnt = s.bitcnt ∧ (s.partialEffect t n m).addrQ = s.addrQ ∧
    (s.partialEffect t n m).valueQ = s.valueQ ∧ (s.partialEffect t n m).target = s.target := by
  cases t <;> simp [State.partialEffect]

/-! ### The run of an operation -/

/-- What every transaction of a busy block keeps, the run of an operation keeps. -/
theorem State.runOperation_keeps {P : State → Prop} (step : ∀ s, s.phase ≠ .idle → P s → P s.transact)
    (n : Nat) (s : State) (h : P s) : P (State.runOperation n s) := by
  induction n generalizing s with
  | zero => exact h
  | succ n ih =>
    rw [State.runOperation]
    split
    · rename_i hb
      have ht := step s (State.busy_eq_true.mp hb) h
      split
      · exact ht
      · exact ih _ ht
    · exact h

theorem State.runOperation_of_idle {s : State} (h : s.phase = .idle) (n : Nat) : State.runOperation n s = s := by
  cases n with
  | zero => rfl
  | succ n => simp [State.runOperation, h]

theorem State.toldNotYet_eq_true {s : State} : s.toldNotYet = true ↔ ∃ n m, s.nextAnswer = .notYet n m := by
  unfold State.toldNotYet
  cases s.nextAnswer <;> simp

/-- One transaction of a running operation whose answer has come. -/
theorem State.runOperation_succ {s : State} (h : s.phase ≠ .idle) (ha : s.toldNotYet = false) (n : Nat) :
    State.runOperation (n + 1) s = State.runOperation n s.transact := by
  simp [State.runOperation, h, ha]

/-- The next transaction of a run, completed. -/
theorem State.run_completes {s : State} {t : Transaction} {m : EnvMove} {rest : List Answer} (n : Nat)
    (ht : s.transaction = some t) (ha : s.answers = .completes m :: rest) :
    State.runOperation (n + 1) s = State.runOperation n (s.takeAnswer.complete t m) := by
  have hb : s.phase ≠ .idle := fun h => by simp [State.transaction, h, transactionOf] at ht
  rw [State.runOperation_succ hb (by simp [State.toldNotYet, State.nextAnswer_cons ha]),
    State.transact_completes ht (State.nextAnswer_cons ha)]

/-- The next transaction of a run, failed: the run is over (R128). -/
theorem State.run_error {s : State} {t : Transaction} {m : EnvMove} {k : Nat} {rest : List Answer} (n : Nat)
    (ht : s.transaction = some t) (ha : s.answers = .error k m :: rest) :
    State.runOperation (n + 1) s = s.takeAnswer.failTransaction t k m := by
  have hb : s.phase ≠ .idle := fun h => by simp [State.transaction, h, transactionOf] at ht
  rw [State.runOperation_succ hb (by simp [State.toldNotYet, State.nextAnswer_cons ha]),
    State.transact_error ht (State.nextAnswer_cons ha), State.runOperation_of_idle (by simp [State.failTransaction])]

theorem State.perform_of_idle {s : State} (h : s.phase = .idle) (p : Phase) (n : Nat) (a : Addr) (v : Value) :
    s.perform p n a v = State.runOperation n (s.accept p a v) := by
  simp [State.perform, h]

theorem State.perform_of_busy {s : State} (h : s.phase ≠ .idle) (p : Phase) (n : Nat) (a : Addr) (v : Value) :
    s.perform p n a v = s := by
  simp [State.perform, h]

/-! ### The meanings and the step -/

theorem exec_sync (a : Addr) (v : Value) (s : State) : exec (.sync a v) s = .next (s.perform .syPurge 3 a v) := rfl

theorem exec_write (a : Addr) (v : Value) (s : State) : exec (.write a v) s = .next (s.perform .wrW1 2 a v) := rfl

theorem exec_read (a : Addr) (v : Value) (s : State) : exec (.read a v) s = .next (s.perform .rdW1 66 a v) := rfl

/-- The phases an operation starts from (R122). -/
abbrev Phase.First (p : Phase) : Prop := p = .syPurge ∨ p = .wrW1 ∨ p = .rdW1

theorem Phase.First.ne_idle {p : Phase} (h : p.First) : p ≠ .idle := by rintro rfl; simp [Phase.First] at h

/-- Every operation runs from a first phase of its own, the one it is accepted into, for the number of
its transactions; no operation stops the machine. -/
theorem exec_eq_perform (i : Instr) : ∃ p n a v, p.First ∧ n ≤ 66 ∧
    ∀ s : State, s.accepted i = s.accept p a v ∧ exec i s = .next (s.perform p n a v) := by
  cases i with
  | sync a v => exact ⟨.syPurge, 3, a, v, .inl rfl, by decide, fun s => ⟨rfl, rfl⟩⟩
  | write a v => exact ⟨.wrW1, 2, a, v, .inr (.inl rfl), by decide, fun s => ⟨rfl, rfl⟩⟩
  | read a v => exact ⟨.rdW1, 66, a, v, .inr (.inr rfl), by decide, fun s => ⟨rfl, rfl⟩⟩

@[simp] theorem State.accepted_sync (s : State) (a : Addr) (v : Value) :
    s.accepted (.sync a v) = s.accept .syPurge a v := rfl

@[simp] theorem State.accepted_write (s : State) (a : Addr) (v : Value) :
    s.accepted (.write a v) = s.accept .wrW1 a v := rfl

@[simp] theorem State.accepted_read (s : State) (a : Addr) (v : Value) :
    s.accepted (.read a v) = s.accept .rdW1 a v := rfl

theorem step_of_busy {s : State} (h : s.phase ≠ .idle) : step s = .next s.transact := by
  simp [step, h]

/-- The first of several steps of a busy block, its transaction completed. -/
theorem runSteps_completes {s : State} {t : Transaction} {m : EnvMove} {rest : List Answer} (n : Nat)
    (ht : s.transaction = some t) (ha : s.answers = .completes m :: rest) :
    runSteps (n + 1) s = runSteps n (s.takeAnswer.complete t m) := by
  have hb : s.phase ≠ .idle := fun h => by simp [State.transaction, h, transactionOf] at ht
  simp only [runSteps]
  rw [step_of_busy hb, State.transact_completes ht (State.nextAnswer_cons ha)]

/-- One more step after several, from a busy block. -/
theorem runSteps_last {k : Nat} {s u : State} (h : runSteps k s = .next u) (hb : u.phase ≠ .idle) :
    runSteps (k + 1) s = .next u.transact := by
  induction k generalizing s with
  | zero =>
    simp only [runSteps] at h ⊢
    injection h with h
    rw [← h] at hb ⊢
    rw [step_of_busy hb]
  | succ k ih =>
    simp only [runSteps] at h ⊢
    cases hst : step s with
    | next t => rw [hst] at h; exact ih h
    | fault r => rw [hst] at h; cases h
    | refused r => rw [hst] at h; cases h

/-- Everything a step can do, by the phase and the host's next move. -/
theorem step_cases {s t : State} (h : step s = .next t) :
    (s.phase ≠ .idle ∧ t = s.transact) ∨
    (s.phase = .idle ∧ ((s.host = [] ∧ t = s.idleCycle) ∨
      (∃ rest, s.host = .nothing :: rest ∧ t = s.takeMove.idleCycle) ∨
      (∃ m rest, s.host = .rst m :: rest ∧ t = s.takeMove.applyReset m) ∨
      (∃ w rest, s.host = .command w :: rest ∧ t = s.takeMove.rejectCommand w) ∨
      ∃ (w : CmdWord) (rest : List HostMove) (p : Phase) (a : Addr) (v : Value), s.host = .command w :: rest ∧
        p.First ∧ t = s.takeMove.accept p a v)) := by
  by_cases hp : s.phase = .idle
  · refine .inr ⟨hp, ?_⟩
    simp only [step, State.busy_eq_true, hp, ne_eq, not_true_eq_false, if_false] at h
    split at h
    · rename_i hh
      exact .inl ⟨hh, by injection h with h; exact h.symm⟩
    · rename_i hh
      exact .inr (.inl ⟨_, hh, by injection h with h; exact h.symm⟩)
    · rename_i hh
      exact .inr (.inr (.inl ⟨_, _, hh, by injection h with h; exact h.symm⟩))
    · rename_i w _ hh
      split at h
      · rename_i i _
        obtain ⟨p, n, a, v, hp', -, he⟩ := exec_eq_perform i
        rw [(he _).1] at h
        exact .inr (.inr (.inr (.inr ⟨w, _, p, a, v, hh, hp', by injection h with h; exact h.symm⟩)))
      · exact .inr (.inr (.inr (.inl ⟨w, _, hh, by injection h with h; exact h.symm⟩)))
  · rw [step_of_busy hp] at h
    exact .inl ⟨hp, by injection h with h; exact h.symm⟩

/-- R161, R163: a step in which `rst` is asserted is the reset of the block. -/
theorem step_of_resetting {s : State} (h : s.Resetting) :
    ∃ m, step s = .next (s.takeAnswer.applyReset m) ∨ step s = .next (s.takeMove.applyReset m) := by
  rcases h with ⟨hb, m, h⟩ | ⟨hb, m, rest, h⟩
  · have hb := State.busy_eq_true.mp hb
    exact ⟨m, .inl (by rw [step_of_busy hb, State.transact_rst hb h])⟩
  · exact ⟨m, .inr (by simp [step, hb, h])⟩

/-- What every transaction of a busy block keeps, and what the moves of an idle block and an acceptance
keep, every step keeps. -/
theorem step_keeps {P : State → Prop} (transact : ∀ s, s.phase ≠ .idle → P s → P s.transact)
    (idle : ∀ s, P s → P s.idleCycle) (move : ∀ s, P s → P s.takeMove)
    (reset : ∀ s m, P s → P (s.applyReset m))
    (reject : ∀ s w, s.phase = .idle → P s → P (s.rejectCommand w))
    (accept : ∀ s p a v, s.phase = .idle → p.First → P s → P (s.accept p a v))
    {s t : State} (hs : P s) (h : step s = .next t) : P t := by
  rcases step_cases h with ⟨hb, rfl⟩ | ⟨hi, ⟨-, rfl⟩ | ⟨-, -, rfl⟩ | ⟨m, -, -, rfl⟩ | ⟨w, -, -, rfl⟩ |
    ⟨-, -, p, a, v, -, hp, rfl⟩⟩
  · exact transact s hb hs
  · exact idle s hs
  · exact idle _ (move s hs)
  · exact reset _ m (move s hs)
  · exact reject _ w (by simpa using hi) (move s hs)
  · exact accept _ p a v (by simpa using hi) hp (move s hs)

end Sys2Proof.Machine
end

