-- ==== Sys2Proof/Laws/PerInstr.lean ====
section
/-! SUPPORT. One law per operation about its command word (30_encoding.md R78): every field of the word
holds what the operation carries, and nothing else is in it. -/

namespace Sys2Proof.Laws.Encoding

/-- The three fields of `encode i`, as R78 places them, are the operation's number and operands. -/
def Statement : Instr → Prop
  | .sync addr value => opField (encode (.sync addr value)) = 0 ∧
      addrField (encode (.sync addr value)) = addr ∧ valueField (encode (.sync addr value)) = value
  | .write addr value => opField (encode (.write addr value)) = 1 ∧
      addrField (encode (.write addr value)) = addr ∧ valueField (encode (.write addr value)) = value
  | .read addr value => opField (encode (.read addr value)) = 2 ∧
      addrField (encode (.read addr value)) = addr ∧ valueField (encode (.read addr value)) = value

/-- The fields of any word put together from the three of them. -/
theorem fields (op : BitVec 2) (addr : Addr) (value : Value) :
    opField (op ++ (addr ++ value)) = op ∧ addrField (op ++ (addr ++ value)) = addr ∧
      valueField (op ++ (addr ++ value)) = value := by
  refine ⟨?_, ?_, ?_⟩ <;> ext i hi
  · simp [opField]; grind
  · simp [addrField]; grind
  · simp [valueField]; grind

theorem sync (addr : Addr) (value : Value) : Statement (.sync addr value) := fields 0 addr value

theorem write (addr : Addr) (value : Value) : Statement (.write addr value) := fields 1 addr value

theorem read (addr : Addr) (value : Value) : Statement (.read addr value) := fields 2 addr value

end Sys2Proof.Laws.Encoding
end

