-- ==== Sys2Proof/Laws/Read.lean ====
section
/-! SUPPORT. The read loop (43_read.md R112 to R117): one round-trip, the loop by induction, the bits
it accumulates, and the whole run of a READ. -/

namespace Sys2Proof.Machine

/-- R40: the two Samples of round-trip `k` as the block sees them, where the adapter returned `x` and
`y`: the ideal target of a synchronised link puts bit `31 - k` of the addressed register into the MISO
flag of the second one. -/
def State.returned (s : State) (k : Nat) (x y : Sample) : Sample × Sample :=
  match s.target, s.linkPhase with
  | some T, .synced => (x, withFlag (misoFlag s.pins) ((Memory.read T s.addrQ).getLsbD (31 - k)) y)
  | _, _ => (x, y)

/-- The `n` pairs of the round-trips from number `k` on, taken from a stream of Samples. -/
def State.returnedPairs (s : State) (k n : Nat) (stream : List Sample) : List (Sample × Sample) :=
  (List.range n).map fun i => State.returned s (k + i) (stream.getD (2*i) 0) (stream.getD (2*i+1) 0)

/-- The state after a read loop of `n` round-trips that saw the pairs `rs` and left `stream` with its
first `2 * n` Samples taken: `acc` and `rdata` hold the received bits, the READ has ended with OK. -/
def State.afterReadLoop (s : State) (n : Nat) (stream : List Sample) (rest : List Answer)
    (rs : List (Sample × Sample)) : State :=
  let v := rs.foldl (fun a r => accumulate a (r.2.getLsbD s.pins.miso)) s.acc
  { s with
    phase := .idle
    acc := v
    bitcnt := 32
    status := .ok
    rdata := v
    done := true
    lineOut := B0L s.pins
    driven := 0
    retBuf := stream.drop (2 * n)
    answers := rest
    draws := s.draws + 2 * n
    results := s.results ++ [⟨.ok, v⟩]
    trace := s.trace ++ rs.flatMap fun r => [.write (burstRDP s.pins), .read 2 [r.1, r.2]] }

theorem State.answeredByTarget_pair (s : State) (h : s.phase = .rdFetch) (x y : Sample) :
   s.answeredByTarget [x, y] = [(State.returned s s.bitcnt.toNat x y).1, (State.returned s s.bitcnt.toNat x y).2] := by
  unfold State.answeredByTarget State.returned
  cases s.target <;> cases s.linkPhase <;> simp [h]

/-- R40: with the target attached to a synchronised link. -/
theorem State.returned_synced {s : State} {T : Memory} (h1 : s.target = some T) (h2 : s.linkPhase = .synced)
    (k : Nat) (x y : Sample) : State.returned s k x y =
      (x, withFlag (misoFlag s.pins) ((Memory.read T s.addrQ).getLsbD (31 - k)) y) := by
  simp [State.returned, h1, h2]

theorem State.returned_congr {s u : State} (h1 : s.target = u.target) (h2 : s.linkPhase = u.linkPhase) 
    (h3 : s.pins = u.pins) (h4 : s.addrQ = u.addrQ) : State.returned s = State.returned u := by
  funext k x y; simp [State.returned, h1, h2, h3, h4]

/-- Two transactions of a run that make one round-trip (R112): the pulse and the fetch. -/
theorem State.run_roundTrip (s : State) (n : Nat) (m1 m2 : EnvMove) (rest : List Answer) (x y : Sample) (more : List Sample)
   (hp : s.phase = .rdPulse) (ha : s.answers = .completes m1 :: .completes m2 :: rest)
   (hb : s.retBuf ++ m1.arrived ++ m2.arrived = x :: y :: more) :
   State.runOperation (n+2) s = State.runOperation n
     (let r := State.returned s s.bitcnt.toNat x y
      ({ s with
            answers := rest
            draws := s.draws + 2
            done := false
            retBuf := more
            lineOut := B0L s.pins
            driven := 0
            phase := .rdFetch
            trace := s.trace ++ [.write (burstRDP s.pins), .read 2 [r.1, r.2]] } : State).afterRoundTrip [r.1, r.2]) := by
  rw [State.run_completes (t := .emit (burstRDP s.pins)) (m := m1) (rest := .completes m2 :: rest) (n+1)
    (by simp [State.transaction, hp, transactionOf]) ha]
  set u := s.takeAnswer.complete (.emit (burstRDP s.pins)) m1 with hu
  have hu2 : u = { s with
        answers := .completes m2 :: rest
        draws := s.draws + 1
        done := false
        retBuf := s.retBuf ++ m1.arrived
        lineOut := B0L s.pins
        driven := 0
        phase := .rdFetch
        trace := s.trace ++ [.write (burstRDP s.pins)] } := by
    rw [hu]; apply State.ext <;> simp [State.complete, State.advance, hp, ha]
  rw [State.run_completes (t := .fetch 2) (m := m2) (rest := rest) n
    (by simp [State.transaction, transactionOf, hu2, pulseFetchN]) (by simp [hu2])]
  rw [State.complete_fetch (s := u.takeAnswer) (by simp [hu2, hb])]
  have hbuf : u.takeAnswer.retBuf ++ m2.arrived = x :: y :: more := by simp [hu2, ← hb]
  rw [hbuf]
  have hr : u.takeAnswer.answeredByTarget (List.take 2 (x :: y :: more)) =
      [(State.returned s s.bitcnt.toNat x y).1, (State.returned s s.bitcnt.toNat x y).2] := by
    rw [show List.take 2 (x :: y :: more) = [x,y] from rfl, State.answeredByTarget_pair _ (by simp [hu2])]
    rw [State.returned_congr (s := u.takeAnswer) (u := s)] <;> simp [hu2]
  rw [hr]
  congr 1
  simp only [State.advance, State.record_phase, State.withBuffer_phase, State.takeAnswer_phase]
  rw [show u.phase = .rdFetch from by simp [hu2]]
  simp only
  congr 1
  apply State.ext <;> simp [hu2]

/-- The read loop from round-trip `k` on, by induction on the number of round-trips left (R127). -/
theorem State.run_readLoop : ∀ (n k : Nat) (s : State) (ms : List EnvMove) (rest : List Answer),
   n + k = 31 → s.phase = .rdPulse →
   s.bitcnt.toNat = k → ms.length = 2 * (n+1) → s.answers = ms.map .completes ++ rest →
   (∀ i < n + 1, 2 * i + 2 ≤ (s.retBuf ++ (ms.take (2*i+2)).flatMap fun m => m.arrived).length) →
   State.runOperation (2 * (n+1)) s =
     State.afterReadLoop s (n+1) (s.retBuf ++ ms.flatMap fun m => m.arrived) rest
       (State.returnedPairs s k (n+1) (s.retBuf ++ ms.flatMap fun m => m.arrived)) := by
  intro n
  induction n with
  | zero =>
    intro k s ms rest hk hp hc hl ha hs
    obtain ⟨m1, m2, rfl⟩ : ∃ m1 m2, ms = [m1, m2] := by
      match ms, hl with
      | [a, b], _ => exact ⟨a, b, rfl⟩
    have h2 := hs 0 (by omega)
    obtain ⟨x, y, more, hb⟩ : ∃ x y more, s.retBuf ++ m1.arrived ++ m2.arrived = x :: y :: more := by
      match hm : s.retBuf ++ m1.arrived ++ m2.arrived with
      | [] => simp at hm; simp [hm] at h2
      | [a] => have := congrArg List.length hm; simp at this h2; omega
      | a :: b :: c => exact ⟨a, b, c, rfl⟩
    rw [State.run_roundTrip s 0 m1 m2 rest x y more hp (by simpa using ha) hb]
    have hst : (s.retBuf ++ [m1, m2].flatMap fun m => m.arrived) = x :: y :: more := by simp [← hb]
    rw [hst]
    have hbc : s.bitcnt = 31 := BitVec.eq_of_toNat_eq (by simp; omega)
    have hkk : k = 31 := by omega
    subst hkk
    simp only [State.runOperation]
    rw [State.afterRoundTrip, if_neg (by simp [hbc, dataW])]
    rw [hc]
    apply State.ext <;> simp [State.afterReadLoop, State.returnedPairs, receivedBit, hbc]
  | succ n ih =>
    intro k s ms rest hk hp hc hl ha hs
    obtain ⟨m1, m2, ms', rfl⟩ : ∃ m1 m2 ms', ms = m1 :: m2 :: ms' := by
      match ms, hl with
      | a :: b :: c, _ => exact ⟨a, b, c, rfl⟩
    have h2 := hs 0 (by omega)
    obtain ⟨x, y, more, hb⟩ : ∃ x y more, s.retBuf ++ m1.arrived ++ m2.arrived = x :: y :: more := by
      match hm : s.retBuf ++ m1.arrived ++ m2.arrived with
      | [] => simp at hm; simp [hm] at h2
      | [a] => have := congrArg List.length hm; simp at this h2; omega
      | a :: b :: c => exact ⟨a, b, c, rfl⟩
    rw [show 2 * (n+1+1) = 2*(n+1)+2 by ring,
      State.run_roundTrip s _ m1 m2 (ms'.map .completes ++ rest) x y more hp (by simpa using ha) hb]
    have hbt : (s.bitcnt + 1).toNat = k + 1 := by rw [BitVec.toNat_add, hc]; simp; omega
    set r := State.returned s s.bitcnt.toNat x y with hr
    simp only
    set v := accumulate s.acc (r.2.getLsbD s.pins.miso) with hv
    have hu : ({ s with
          answers := ms'.map .completes ++ rest
          draws := s.draws + 2
          done := false
          retBuf := more
          lineOut := B0L s.pins
          driven := 0
          phase := .rdFetch
          trace := s.trace ++ [.write (burstRDP s.pins), .read 2 [r.1, r.2]] } : State).afterRoundTrip [r.1, r.2] =
       { s with
             answers := ms'.map .completes ++ rest
             draws := s.draws + 2
             done := false
             retBuf := more
             lineOut := B0L s.pins
             driven := 0
             phase := .rdPulse
             acc := v
             bitcnt := s.bitcnt + 1
             trace := s.trace ++ [.write (burstRDP s.pins), .read 2 [r.1, r.2]] } := by
      rw [State.afterRoundTrip, if_pos (by simp only [hbt, dataW]; omega)]
      apply State.ext <;> simp [receivedBit, hv]
    rw [hu]
    set u : State := { s with
          answers := ms'.map .completes ++ rest
          draws := s.draws + 2
          done := false
          retBuf := more
          lineOut := B0L s.pins
          driven := 0
          phase := .rdPulse
          acc := v
          bitcnt := s.bitcnt + 1
          trace := s.trace ++ [.write (burstRDP s.pins), .read 2 [r.1, r.2]] } with hudef
    have hstream : (s.retBuf ++ (m1 :: m2 :: ms').flatMap fun m => m.arrived) =
        x :: y :: (more ++ ms'.flatMap fun m => m.arrived) := by
      simp only [List.flatMap_cons, ← List.append_assoc, hb]; simp
    rw [ih (k+1) u ms' rest (by omega) rfl hbt (by simp at hl; omega) rfl ?_]
    · rw [hstream]
      have hres : State.returnedPairs s k (n+1+1) (x :: y :: (more ++ ms'.flatMap fun m => m.arrived)) =
          r :: State.returnedPairs u (k+1) (n+1) (more ++ ms'.flatMap fun m => m.arrived) := by
        unfold State.returnedPairs
        rw [List.range_succ_eq_map, List.map_cons, List.map_map]
        congr 1
        · simp [hr, hc]
        · refine List.map_congr_left fun i _ => ?_
          rw [State.returned_congr (s := u) (u := s) rfl rfl rfl rfl]
          simp only [Function.comp, Nat.succ_eq_add_one]
          rw [show 2*(i+1) = 2*i+1+1 by ring, show k + (i+1) = k+1+i by ring]; rfl
      rw [hres]
      apply State.ext <;> simp [State.afterReadLoop, hudef, hv]
      · rfl
      · ring
    · intro i hi
      have := hs (i+1) (by omega)
      rw [show 2*(i+1)+2 = 2*i+2+1+1 by ring] at this
      simp only [List.take_succ_cons, List.flatMap_cons, ← List.append_assoc, hb] at this
      simp at this ⊢
      omega

/-- R116, R117: accumulating one received bit per round-trip puts that of round-trip `i` at bit
`length - 1 - i`. -/
theorem accumulate_getLsbD (p : Nat) (rs : List (Sample × Sample)) (a0 : Value) (h : rs.length ≤ 32) :
   ∀ i < rs.length, (rs.foldl (fun a r => accumulate a (r.2.getLsbD p)) a0).getLsbD (rs.length - 1 - i) =
     (rs.getD i (0,0)).2.getLsbD p := by
  induction rs using List.reverseRecOn with
  | nil => simp
  | append_singleton rs r ih =>
    intro i hi
    simp only [List.foldl_append, List.foldl_cons, List.foldl_nil, List.length_append, List.length_singleton] at *
    have hacc : ∀ (v : Value) (b : Bool) j, (accumulate v b).getLsbD j =
        if j = 0 then b else (decide (j < 32) && v.getLsbD (j-1)) := by
      intro v b j
      unfold accumulate
      rcases j with _ | j
      · cases b <;> simp
      · cases b <;> simp [BitVec.getLsbD_shiftLeft, BitVec.getLsbD_one]
    rw [hacc]
    by_cases hii : i = rs.length
    · subst hii; simp
    · have hlt : i < rs.length := by omega
      rw [if_neg (by omega), show rs.length + 1 - 1 - i - 1 = rs.length - 1 - i by omega,
        ih (by omega) i hlt, List.getD_append _ _ _ _ hlt]
      simp; omega

/-- The run of a READ whose 66 transactions complete, with or without an ideal target (R112). -/
theorem exec_read_run (s : State) (a : Addr) (v : Value) (ms : List EnvMove) (rest : List Answer)
   (hs : s.phase = .idle) (hl : ms.length = 66) (hf : FetchesSupplied s.retBuf ms) (ha : s.answers = ms.map .completes ++ rest) :
   ∃ stream d, stream = (s.retBuf ++ ms.flatMap fun m => m.arrived) ∧ 65 ≤ stream.length ∧ d = stream.getD 0 0 ∧
    exec (.read a v) s = .next (State.afterReadLoop { s with
          addrQ := a
          valueQ := v
          acc := 0
          bitcnt := 0
          draws := s.draws + 2
          trace := s.trace ++ [.write (burstRD1 s.pins a), .read 1 [d]] } 32 (stream.drop 1) rest
       (State.returnedPairs { s with addrQ := a } 0 32 (stream.drop 1))) := by
  obtain ⟨m0, m1, ms', rfl⟩ : ∃ m0 m1 ms', ms = m0 :: m1 :: ms' := by
    match ms, hl with
    | a :: b :: c, _ => exact ⟨a, b, c, rfl⟩
  have h0 := hf 0 (by omega)
  obtain ⟨d, more, hb⟩ : ∃ d more, s.retBuf ++ m0.arrived ++ m1.arrived = d :: more := by
    match hm : s.retBuf ++ m0.arrived ++ m1.arrived with
    | [] => simp at hm; simp [hm] at h0
    | a :: b => exact ⟨a, b, rfl⟩
  have hst : (s.retBuf ++ (m0 :: m1 :: ms').flatMap fun m => m.arrived) = d :: (more ++ ms'.flatMap fun m => m.arrived) := by
    simp only [List.flatMap_cons, ← List.append_assoc, hb]; simp
  refine ⟨_, d, rfl, ?_, by rw [hst]; rfl, ?_⟩
  · have := hf 32 (by omega)
    rwa [List.take_of_length_le (by omega)] at this
  rw [hst, exec_read, State.perform_of_idle hs,
    State.run_completes (t := .emit (burstRD1 s.pins a)) (m := m0) (rest := .completes m1 :: (ms'.map .completes ++ rest)) 65
      (by simp [State.transaction, transactionOf]) (by simp [ha])]
  set u := (s.accept .rdW1 a v).takeAnswer.complete (.emit (burstRD1 s.pins a)) m0 with hu
  have hu2 : u = { s with
        addrQ := a
        valueQ := v
        phase := .rdDiscard
        done := false
        answers := .completes m1 :: (ms'.map .completes ++ rest)
        draws := s.draws + 1
        retBuf := s.retBuf ++ m0.arrived
        lineOut := TRL s.pins
        driven := 0
        trace := s.trace ++ [.write (burstRD1 s.pins a)] } := by
    rw [hu]; apply State.ext <;> simp [State.complete, State.advance, ha]
  rw [State.run_completes (t := .fetch 1) (m := m1) (rest := ms'.map .completes ++ rest) 64
    (by simp [State.transaction, transactionOf, hu2, discardN]) (by simp [hu2])]
  rw [State.complete_fetch (s := u.takeAnswer) (by simp [hu2, hb])]
  have hbuf : u.takeAnswer.retBuf ++ m1.arrived = d :: more := by simp [hu2, ← hb]
  rw [hbuf]
  have hans : u.takeAnswer.answeredByTarget [d] = [d] := by
    unfold State.answeredByTarget; split <;> simp_all
  rw [show List.take 1 (d :: more) = [d] from rfl, hans, show List.drop 1 (d :: more) = more from rfl]
  set w := ((u.takeAnswer.withBuffer more).record (.read 1 [d])).advance [d] m1 with hw
  have hw2 : w = { s with
        addrQ := a
        valueQ := v
        phase := .rdPulse
        acc := 0
        bitcnt := 0
        done := false
        answers := ms'.map .completes ++ rest
        draws := s.draws + 2
        retBuf := more
        lineOut := TRL s.pins
        driven := 0
        trace := s.trace ++ [.write (burstRD1 s.pins a), .read 1 [d]] } := by
    rw [hw]; apply State.ext <;> simp [State.advance, hu2]
  have hlp := State.run_readLoop 31 0 w ms' rest (by omega) (by simp [hw2]) (by simp [hw2])
    (by simp at hl; omega) (by simp [hw2]) ?_
  · rw [show 2 * (31 + 1) = 64 from rfl] at hlp
    rw [hlp]
    have : State.returnedPairs w 0 (31+1) (w.retBuf ++ ms'.flatMap fun m => m.arrived) =
        State.returnedPairs { s with addrQ := a } 0 32 (more ++ ms'.flatMap fun m => m.arrived) := by
      unfold State.returnedPairs
      refine List.map_congr_left fun i _ => ?_
      rw [State.returned_congr (s := w) (u := { s with addrQ := a })] <;> simp [hw2]
    rw [this]
    congr 1
    apply State.ext <;> simp [State.afterReadLoop, hw2]
  · intro i hi
    have := hf (i+1) (by omega)
    rw [show 2*(i+1)+2 = 2*i+2+1+1 by ring] at this
    simp only [List.take_succ_cons, List.flatMap_cons, ← List.append_assoc, hb] at this
    simp [hw2] at this ⊢
    omega

end Sys2Proof.Machine
end

