-- ==== Sys2Proof/Laws/ReadSteps.lean ====
section
/-! SUPPORT. A READ in progress (44_sequencer.md R125, R127): what holds after `k` of its transactions
have completed, kept from one step to the next. -/

namespace Sys2Proof.Machine

/-- The Samples that stood in the return buffer or have arrived in the first `k` transactions. -/
def arrivedBy (buf : List Sample) (ms : List EnvMove) (k : Nat) : List Sample :=
  buf ++ (ms.take k).flatMap fun m => m.arrived

theorem arrivedBy_succ (buf : List Sample) {ms : List EnvMove} {k : Nat} (h : k < ms.length) :
    arrivedBy buf ms (k + 1) = arrivedBy buf ms k ++ ms[k].arrived := by
  unfold arrivedBy
  rw [List.take_add_one, List.getElem?_eq_getElem h]
  simp only [Option.toList_some, List.flatMap_append, List.flatMap_cons, List.flatMap_nil, List.append_nil,
    List.append_assoc]

/-- Each of the fetches among the transactions `ms` finds its Samples. -/
abbrev SuppliedSoFar (buf : List Sample) (ms : List EnvMove) : Prop :=
  ∀ j < ms.length / 2, 2 * j + 1 ≤ (arrivedBy buf ms (2 * j + 2)).length

/-- The state `u` in which a READ of `a`, accepted in `s`, is after `k` completed transactions, with
the answers `tail` behind those of `ms`. -/
structure ReadProgress (s : State) (a : Addr) (ms : List EnvMove) (tail : List Answer) (k : Nat) (u : State) :
    Prop where
  phase : u.phase = readPhase k
  bitcnt : 2 ≤ k → u.bitcnt.toNat = (k - 2) / 2
  traceLength : u.trace.length = s.trace.length + k
  tracePrefix : s.trace <+: u.trace
  retBuf : u.retBuf = (arrivedBy s.retBuf ms k).drop (if k < 2 then 0 else 2 * (k / 2) - 1)
  answers : u.answers = (ms.drop k).map .completes ++ tail
  draws : u.draws = s.draws + k
  addrQ : u.addrQ = a
  pins : u.pins = s.pins

theorem readPhase_ne_idle (k : Nat) : readPhase k ≠ .idle := by
  unfold readPhase
  split <;> (try split) <;> (try split) <;> simp

section progress
variable {s u : State} {a : Addr} {ms : List EnvMove} {tail : List Answer} {k : Nat}

theorem ReadProgress.next_answers (h : ReadProgress s a ms tail k u) (hk : k < ms.length) :
    u.answers = .completes ms[k] :: ((ms.drop (k + 1)).map .completes ++ tail) := by
  rw [h.answers, List.drop_eq_getElem_cons hk]
  rfl

/-- What a transaction of a READ keeps, apart from phase, count and return buffer: stated of the state
`w` the transaction leads to, one event longer. -/
theorem ReadProgress.of_next {w : State} {e : Event} (h : ReadProgress s a ms tail k u) (hk : k < ms.length)
    (phase : w.phase = readPhase (k + 1)) (bitcnt : 2 ≤ k + 1 → w.bitcnt.toNat = (k + 1 - 2) / 2)
    (retBuf : w.retBuf = (arrivedBy s.retBuf ms (k + 1)).drop (if k + 1 < 2 then 0 else 2 * ((k + 1) / 2) - 1))
    (trace : w.trace = u.trace ++ [e]) (answers : w.answers = u.answers.tail) (draws : w.draws = u.draws + 1)
    (addrQ : w.addrQ = u.addrQ) (pins : w.pins = u.pins) : ReadProgress s a ms tail (k + 1) w where
  phase := phase
  bitcnt := bitcnt
  traceLength := by rw [trace, List.length_append, h.traceLength]; simp; omega
  tracePrefix := h.tracePrefix.trans (by rw [trace]; exact List.prefix_append _ _)
  retBuf := retBuf
  answers := by rw [answers, h.next_answers hk]; rfl
  draws := by rw [draws, h.draws]; omega
  addrQ := addrQ.trans h.addrQ
  pins := pins.trans h.pins

/-- The fetches so far took fewer Samples than had arrived. -/
theorem SuppliedSoFar.taken_le {buf : List Sample} (hs : SuppliedSoFar buf ms) (h2 : 2 ≤ k) (hk : k < ms.length) :
    2 * (k / 2) - 1 ≤ (arrivedBy buf ms k).length := by
  have h := hs (k / 2 - 1) (by omega)
  rcases Nat.mod_two_eq_zero_or_one k with he | ho
  · rw [show 2 * (k / 2 - 1) + 2 = k by omega] at h
    omega
  · obtain ⟨j, rfl⟩ : ∃ j, k = j + 1 := ⟨k - 1, by omega⟩
    rw [show 2 * ((j + 1) / 2 - 1) + 2 = j by omega] at h
    rw [arrivedBy_succ buf (by omega), List.length_append]
    omega

/-- One more completed transaction of a READ that is not its last. -/
theorem ReadProgress.step (h : ReadProgress s a ms tail k u) (hk : k < ms.length) (hl : k < 65)
    (hs : SuppliedSoFar s.retBuf ms) : ReadProgress s a ms tail (k + 1) u.transact := by
  have ph := h.phase
  have rb := h.retBuf
  have na := State.nextAnswer_cons (h.next_answers hk)
  have hS := arrivedBy_succ s.retBuf hk
  rcases Nat.lt_or_ge k 2 with h2 | h2
  · obtain rfl | rfl : k = 0 ∨ k = 1 := by omega
    · simp [readPhase] at ph
      rw [State.transact_completes (t := .emit (burstRD1 u.pins u.addrQ))
        (by simp [State.transaction, ph, transactionOf]) na]
      simp only [State.complete, State.advance, State.record_phase, State.driveLines_phase,
        State.withBuffer_phase, State.takeAnswer_phase, ph]
      exact h.of_next hk (by simp [readPhase]) (by omega) (by simp [hS, rb]) rfl rfl rfl rfl rfl
    · simp [readPhase] at ph
      have hb : u.retBuf ++ ms[1].arrived = arrivedBy s.retBuf ms 2 := by rw [hS, rb]; rfl
      rw [State.transact_completes (t := .fetch 1) (by simp [State.transaction, ph, transactionOf, discardN]) na,
        State.complete_fetch (s := u.takeAnswer)
          (by simp only [State.takeAnswer_retBuf]; rw [hb]; exact hs 0 (by omega))]
      simp only [State.advance, State.record_phase, State.withBuffer_phase, State.takeAnswer_phase, ph]
      exact h.of_next hk (by simp [readPhase]) (by simp) (by simp [hb]) rfl rfl rfl rfl rfl
  · have bc := h.bitcnt h2
    have hb : u.retBuf ++ ms[k].arrived = (arrivedBy s.retBuf ms (k + 1)).drop (2 * (k / 2) - 1) := by
      rw [hS, List.drop_append_of_le_length (hs.taken_le h2 hk), rb, if_neg (by omega)]
    by_cases he : k % 2 = 0
    · rw [readPhase, if_neg (by omega), if_neg (by omega), if_pos he] at ph
      rw [State.transact_completes (t := .emit (burstRDP u.pins))
        (by simp [State.transaction, ph, transactionOf]) na]
      simp only [State.complete, State.advance, State.record_phase, State.driveLines_phase,
        State.withBuffer_phase, State.takeAnswer_phase, ph]
      refine h.of_next hk ?_ (fun _ => ?_) ?_ rfl rfl rfl rfl rfl
      · rw [readPhase, if_neg (by omega), if_neg (by omega), if_neg (by omega)]
        rfl
      · simp [bc]
        omega
      · rw [if_neg (by omega), show (k + 1) / 2 = k / 2 by omega, ← hb]
        simp
    · rw [readPhase, if_neg (by omega), if_neg (by omega), if_neg he] at ph
      have hlen := hs (k / 2) (by omega)
      rw [show 2 * (k / 2) + 2 = k + 1 by omega] at hlen
      rw [State.transact_completes (t := .fetch 2) (by simp [State.transaction, ph, transactionOf, pulseFetchN]) na,
        State.complete_fetch (s := u.takeAnswer)
          (by simp only [State.takeAnswer_retBuf]; rw [hb, List.length_drop]; omega)]
      simp only [State.takeAnswer_retBuf]
      rw [hb]
      simp only [State.advance, State.record_phase, State.withBuffer_phase, State.takeAnswer_phase, ph]
      generalize u.takeAnswer.answeredByTarget _ = f
      generalize hw : (u.takeAnswer.withBuffer _).record (.read 2 f) = w
      have e : (w.bitcnt + 1).toNat = (k - 2) / 2 + 1 := by
        rw [show w.bitcnt = u.bitcnt by rw [← hw]; rfl, BitVec.toNat_add, bc]
        simp
        omega
      rcases State.afterRoundTrip_cases w f with ⟨-, h'⟩ | ⟨hge, -⟩
      · rw [h']
        refine h.of_next (e := .read 2 f) hk ?_ (fun _ => ?_) ?_ (by simp [← hw]) (by simp [← hw])
          (by simp [← hw]) (by simp [← hw]) (by simp [← hw])
        · rw [readPhase, if_neg (by omega), if_neg (by omega), if_pos (by omega)]
          rfl
        · rw [State.goto_bitcnt, State.setCount_bitcnt, e]
          omega
        · rw [State.goto_retBuf, State.setCount_retBuf, ← hw, State.record_retBuf, State.withBuffer_retBuf,
            if_neg (by omega), List.drop_drop, show 2 * ((k + 1) / 2) - 1 = 2 * (k / 2) - 1 + 2 by omega]
      · omega

/-- A READ of which `k` transactions have completed: the state the steps lead to, and the one the rest
of `exec` starts from. -/
theorem readProgress_reached {v : Value} (hp : s.phase = .idle) (ha : s.answers = ms.map .completes ++ tail)
    (hs : SuppliedSoFar s.retBuf ms) : ∀ k ≤ ms.length, k < 66 →
    ∃ u, ReadProgress s a ms tail k u ∧ runSteps k (s.accepted (.read a v)) = .next u ∧
      ∀ n, n + k = 66 → exec (.read a v) s = .next (State.runOperation n u) := by
  intro k
  induction k with
  | zero =>
    refine fun _ _ => ⟨s.accept .rdW1 a v,
      ⟨rfl, by simp, rfl, List.prefix_refl _, by simp [arrivedBy], by simp [ha], rfl, rfl, rfl⟩, rfl, ?_⟩
    rintro n rfl
    rw [exec_read, State.perform_of_idle hp]
  | succ k ih =>
    intro hk hl
    obtain ⟨u, hu, hr, he⟩ := ih (by omega) (by omega)
    have hb : u.phase ≠ .idle := by rw [hu.phase]; exact readPhase_ne_idle k
    refine ⟨u.transact, hu.step (by omega) (by omega) hs, runSteps_last hr hb, fun n hn => ?_⟩
    rw [he (n + 1) (by omega), State.runOperation_succ hb]
    simp [State.toldNotYet, State.nextAnswer_cons (hu.next_answers (show k < ms.length by omega))]

end progress

end Sys2Proof.Machine
end

