-- ==== Sys2Proof/Tests/Slice0.lean ====
section
/-! SUPPORT. Tests. Expected values are those of 95_test_vectors.md, printed there under the binding
`EX1` (R60), or worked out by hand from the rule named. The second part holds one witness for the
hypotheses of each statement of Certificates/Slice0/Obligations.lean. -/

namespace Sys2Proof.Tests

open Sys2Proof.Machine

/-! ### Helpers -/

/-- A completed transaction during which nothing arrives in the return buffer. -/
def quiet : Answer := .completes ⟨[], []⟩

/-- A completed transaction during which the given Samples arrive. -/
def arrives (l : List Sample) : Answer := .completes ⟨l, []⟩

/-- An idle block under `EX1` with all lines low, an empty return buffer, and the given answers to
come. -/
def ready (answers : List Answer) : State where
  phase := .idle
  addrQ := 0
  valueQ := 0
  acc := 0
  bitcnt := 0
  status := .ok
  rdata := 0
  linkPhase := .unknown
  lineOut := 0
  driven := 0
  done := false
  trace := []
  results := []
  pins := .ex1
  retBuf := []
  target := none
  answers := answers
  host := []
  draws := 0

/-- The same with the link synchronised and an ideal target attached. -/
def synced (t : Memory) (answers : List Answer) : State :=
  { ready answers with linkPhase := .synced, target := some t }

/-- The block in the given phase. -/
def inPhase (p : Phase) (answers : List Answer) : State := { ready answers with phase := p }

/-- A sampling pulse of which the first Sample, 09 under `EX1`, is on the lines. -/
def pulsing (answers : List Answer) : State := { inPhase .rdPulse answers with lineOut := 9, driven := 1 }

/-- The state of a next outcome, `ready []` for any other. -/
def after : Host.Outcome State Fault Refusal → State
  | .next t => t
  | _ => ready []

/-- The moves of a READ whose discarded Sample is `d` and whose round-trips return the given pairs. -/
def readMoves (d : Sample) (pairs : List (Sample × Sample)) : List EnvMove :=
  ⟨[], []⟩ :: ⟨[d], []⟩ :: pairs.flatMap fun r => [⟨[], []⟩, ⟨[r.1, r.2], []⟩]

/-- Round-trips that return, in the MISO flag of the second Sample under `EX1`, the bits of `v` from the
most significant one on; `first`, `low` and `high` are the first Sample, the second one for 0 and for 1. -/
def pairsOf (v : Value) (first low high : Sample) : List (Sample × Sample) :=
  (List.range 32).map fun i => (first, if v.getLsbD (31 - i) then high else low)

/-! ### Ill-formed terms are refused -/

/-- R84: an address above 255, a value above 4294967295. -/
theorem test_line_out_of_range_refused :
    Line.wellFormed (.write 256 0) = false ∧ Line.wellFormed (.write 0 4294967296) = false ∧
    Line.wellFormed (.read 256) = false ∧ Line.wellFormed (.write 255 4294967295) = true ∧
    assemble (.read 256) = none := by decide

/-- R90, U6, E8: a width above 32. -/
theorem test_width_33_refused :
    widthOk 33 = false ∧ widthOk 32 = true ∧ encodeBits .ex1 5 33 = none := by decide

/-- R60: two flags at one position. -/
theorem test_shared_pin_refused :
    ¬ Pins.Valid ⟨0, 1, 2, 2⟩ ∧ Pins.Valid ⟨7, 0, 3, 5⟩ ∧ Pins.Valid .ex1 := by decide

/-! ### Words (R78), written bit by bit -/

/-- Y2: SYNC with junk in both fields, word 0x0AB12345678. -/
theorem test_decode_sync :
    decode 0b001010101100010010001101000101011001111000#42 = .ok (.sync 0xAB 0x12345678) := by decide

/-- W1: `write 0x02 0xDEADBEEF`, word 0x102DEADBEEF. -/
theorem test_decode_write :
    decode 0b010000001011011110101011011011111011101111#42 = .ok (.write 0x02 0xDEADBEEF) := by decide

/-- D7: `read 0xFF` with junk in `value`, word 0x2FFFFFFFFFF. -/
theorem test_decode_read :
    decode 0b101111111111111111111111111111111111111111#42 = .ok (.read 0xFF 0xFFFFFFFF) := by decide

/-- Q2: the reserved word 0x31200000034. -/
theorem test_decode_reserved :
    decode 0b110001001000000000000000000000000000110100#42 = .error .reservedOp := by decide

/-- P3: `write 0x03 0x8000000F` is 0x1038000000F. W4: `write 0xFE 0xFFFFFFFF` is 0x1FEFFFFFFFF. -/
theorem test_encode_words :
    encode (.write 0x03 0x8000000F) = 0x1038000000F ∧ encode (.write 0xFE 0xFFFFFFFF) = 0x1FEFFFFFFFF ∧
    encode (.read 0x10 0) = 0x21000000000 ∧ encode (.sync 0 0) = 0 := by decide

/-- R83: a number with a bit above 41 is no command word (log 13). -/
theorem test_table_word :
    decodeTableWord 48 0x2FF00000000 = some (.read 0xFF 0) ∧ decodeTableWord 48 (2 ^ 42) = none ∧
    decodeTableWord 48 0x30000000000 = none := by decide

/-- P1: the text of the program and its words. -/
theorem test_text :
    (parseLine "write 0x10 0x12345678".toList).bind assemble = some 0x11012345678 ∧
    (parseLine "read  0x10".toList).bind assemble = some 0x21000000000 ∧
    (parseLine "sync".toList).bind assemble = some 0x00000000000 ∧
    (parseLine "read 16".toList).bind assemble = some 0x21000000000 ∧
    parseLine "read 1g".toList = none := by decide +kernel

/-! ### The bit-frame encoder -/

/-- E1 to E5. -/
theorem test_encode_bits_small :
    encodeBits .ex1 0 0 = some [] ∧ encodeBits .ex1 1 1 = some [0x0B, 0x0A] ∧
    encodeBits .ex1 0 1 = some [0x09, 0x08] ∧
    encodeBits .ex1 5 3 = some [0x0B, 0x0A, 0x09, 0x08, 0x0B, 0x0A] ∧
    encodeBits .ex1 0x1F5 3 = some [0x0B, 0x0A, 0x09, 0x08, 0x0B, 0x0A] := by decide

/-- S1, the address 0xA5, and back. -/
theorem test_encode_bits_a5 :
    encodeBits .ex1 0xA5 8 = some [0x0B, 0x0A, 0x09, 0x08, 0x0B, 0x0A, 0x09, 0x08,
      0x09, 0x08, 0x0B, 0x0A, 0x09, 0x08, 0x0B, 0x0A] ∧
    decodeFrame .ex1 (bitFrame .ex1 0xA5 8) 8 = 0xA5 := by decide

/-- R64: the eight Samples under `EX1`. -/
theorem test_alphabet : alphabet .ex1 = [0x0B, 0x0A, 0x09, 0x08, 0x03, 0x02, 0x01, 0x00] := by decide

/-! ### The operations -/

/-- Y1, with junk in the fields (Y2): the trace. -/
theorem test_sync_trace :
    (after (exec (.sync 0xAB 0x12345678) (ready [quiet, quiet, quiet]))).trace =
      [.purge, .write ((List.replicate 32 [0x09, 0x08]).flatten ++ [0x0B, 0x0A]),
        .write ((List.replicate 7 [0x0B, 0x0A]).flatten ++ [0x09, 0x08, 0x03, 0x02])] := by decide +kernel

/-- Y3: a fault in the purge: no Sample emitted, `status` 2, `link_phase` UNKNOWN. -/
theorem test_sync_purge_fault :
    (after (exec (.sync 0 0) (synced [] [.error 0 ⟨[], []⟩]))).trace = [.purgeError] ∧
    (after (exec (.sync 0 0) (synced [] [.error 0 ⟨[], []⟩]))).linkPhase = .unknown ∧
    statusCode (after (exec (.sync 0 0) (synced [] [.error 0 ⟨[], []⟩]))).status = 2 := by decide +kernel

/-- W1: the trace; the nibbles D E A D B E E F, then 0x02 and the commit trailer. -/
theorem test_write_trace :
    (after (exec (.write 0x02 0xDEADBEEF) (ready [quiet, quiet]))).trace =
      [.write (
        [0x0B, 0x0A, 0x0B, 0x0A, 0x09, 0x08, 0x0B, 0x0A] ++ [0x0B, 0x0A, 0x0B, 0x0A, 0x0B, 0x0A, 0x09, 0x08] ++
        [0x0B, 0x0A, 0x09, 0x08, 0x0B, 0x0A, 0x09, 0x08] ++ [0x0B, 0x0A, 0x0B, 0x0A, 0x09, 0x08, 0x0B, 0x0A] ++
        [0x0B, 0x0A, 0x09, 0x08, 0x0B, 0x0A, 0x0B, 0x0A] ++ [0x0B, 0x0A, 0x0B, 0x0A, 0x0B, 0x0A, 0x09, 0x08] ++
        [0x0B, 0x0A, 0x0B, 0x0A, 0x0B, 0x0A, 0x09, 0x08] ++ [0x0B, 0x0A, 0x0B, 0x0A, 0x0B, 0x0A, 0x0B, 0x0A]),
      .write ([0x09, 0x08, 0x09, 0x08, 0x09, 0x08, 0x09, 0x08] ++
        [0x09, 0x08, 0x09, 0x08, 0x0B, 0x0A, 0x09, 0x08, 0x03, 0x02])] := by decide +kernel

/-- P5: the ideal target with T[0x03] = 0x0000000F after `write 0x03 0x8000000F`. -/
theorem test_write_target :
    (after (exec (.write 0x03 0x8000000F) (synced [(3, 0x0000000F)] [quiet, quiet]))).target =
      some [(3, 0x8000000F)] := by decide +kernel

/-- D2: the discarded Sample and every first Sample FF, every second one FB or FF: 0xB2C3D4E5; 33 bursts,
33 fetches, the lines at 08. -/
theorem test_read_value :
    (let t := after (exec (.read 0xFF 0) (ready ((readMoves 0xFF (pairsOf 0xB2C3D4E5 0xFF 0xFB 0xFF)).map .completes)))
    (t.rdata, t.status, t.lineOut, t.trace.length)) = (0xB2C3D4E5, .ok, 0x08, 66) := by decide +kernel

/-- P5: the ideal target answers with its register whatever the adapter returns. -/
theorem test_read_target :
    (after (exec (.read 0x03 0) (synced [(3, 0x0000000F)]
      ((readMoves 0 (pairsOf 0 0xFF 0x00 0xFF)).map .completes)))).rdata = 0x0000000F := by decide +kernel

/-! ### The sequencer -/

/-- Q1: the reserved word 0x30000000000 leaves no event, `status` 4, `link_phase` and `line_out` as they
were. -/
theorem test_reserved_word :
    (let t := after (step ((synced [] []).present 0x30000000000))
    (t.trace, statusCode t.status, t.done, t.linkPhase, t.lineOut, t.phase)) =
      ([], 4, true, .synced, 0, .idle) := by decide

/-- Q7: a fetch the transport never completes keeps the block in RD_FETCH, busy, without a `done`. -/
theorem test_hang :
    (let t := after (step (inPhase .rdFetch [.notYet 0 ⟨[], []⟩]))
    (t.phase, t.busy, t.done)) = (.rdFetch, true, false) := by decide

/-- R133 under `EX1`: a pulse of which one Sample is on the bus and the other is not shows 09, whether
the next step drives none or fails before the next one; one Sample more and it shows 08. -/
theorem test_lines_while_waiting :
    (after (step (inPhase .rdPulse [.notYet 1 ⟨[], []⟩]))).lineOut = 0x09 ∧
    (after (step (inPhase .rdPulse [.notYet 0 ⟨[], []⟩]))).lineOut = 0x00 ∧
    (after (runSteps 2 (inPhase .rdPulse [.notYet 1 ⟨[], []⟩, .notYet 0 ⟨[], []⟩]))).lineOut = 0x09 ∧
    (after (runSteps 2 (inPhase .rdPulse [.notYet 1 ⟨[], []⟩, .notYet 1 ⟨[], []⟩]))).lineOut = 0x08 ∧
    (after (runSteps 2 (inPhase .rdPulse [.notYet 1 ⟨[], []⟩, .error 0 ⟨[], []⟩]))).lineOut = 0x09 := by decide

/-- Q8: `rst` in WR_W2: no `done`, IDLE, UNKNOWN. -/
theorem test_reset_in_write :
    (let t := after (step (inPhase .wrW2 [.rst ⟨[], []⟩]))
    (t.phase, t.done, t.linkPhase)) = (.idle, false, .unknown) := by decide

/-- R26: in RD_PULSE under `EX1` the stream is 09, then 08 marked last; in RD_FETCH two Samples are
requested. -/
theorem test_ports :
    (inPhase .rdPulse []).txStream = [(0x09, false), (0x08, true)] ∧ (inPhase .rdFetch []).rxN = 2 ∧
    (inPhase .syPurge []).purgeReq = true := by decide

/-- Q5: a WRITE's phases are WR_W1 after its acceptance, WR_W2, IDLE, one transaction a step; W1's first
burst has 64 Samples, its second 18. -/
theorem test_fetch_word_runs :
    (let s0 := (ready [quiet, quiet]).withFetchWord 48 0x102DEADBEEF
    let s1 := after (step s0)
    let s2 := after (step s1)
    let s3 := after (step s2)
    (s1.phase, s1.trace.length, s2.phase, s2.trace.length, s3.phase, s3.trace.map fun e =>
      match e with
      | .write l => l.length
      | _ => 0)) = (.wrW1, 0, .wrW2, 1, .idle, [64, 18]) := by decide +kernel

/-- The machine as the host reads it starts at `State.reset`. -/
theorem test_core_reset : core.reset = State.reset := rfl

/-- R85 (b), (c): one pair takes a SYNC, a WRITE and four READs. -/
theorem test_dash_w : (dashW [(1, 2)]).length = 6 ∧ dashD.length = 5 := by decide

/-- The direction mask of R34 under `EX1`: CLOCK, MOSI, STROBE outputs, MISO an input. -/
theorem test_pin_mask :
    legalPinMask .ex1 0x0B = true ∧ legalPinMask .ex1 0xFB = true ∧ legalPinMask .ex1 0x0F = false ∧
    legalPinMask .ex1 0x03 = false := by decide

/-- Writing what an unlisted register reads as removes the entry; the form is kept. -/
theorem test_memory_canonical :
    Memory.write [(3, 7), (9, 1)] 3 0 = [(9, 1)] ∧ Memory.write [(3, 7)] 0xFF 5 = [(3, 7), (255, 5)] ∧
    Memory.wf (Memory.write [(3, 7)] 0xFF 5) = true ∧ Memory.wf [(3, 0)] = false := by decide

/-! ### Witnesses of the statements' hypotheses -/
/-- `EX1` and every width of R90 at its ends; a value of full width. -/
theorem test_hypotheses_of_EncodeBitsSampleBySample :
    Pins.ex1.Valid ∧ 32 ≤ 32 ∧ 0 ≤ 32 ∧ 31 < 32 := by decide

theorem test_hypotheses_of_EncodeBitsDomain : 32 < 33 := by decide

theorem test_hypotheses_of_FrameDecodesToItsValue :
    Pins.ex1.Valid ∧ 32 ≤ 32 ∧ 0xFFFFFFFF < 2 ^ 32 := by decide

/-- A burst with a trailer and a burst without. -/
theorem test_hypotheses_of_StrobeLowExactlyInTrailers :
    (inPhase .rdW1 []).pins.Valid ∧
    (inPhase .rdW1 []).transaction = some (.emit (burstRD1 .ex1 0)) ∧
    (inPhase .rdPulse []).transaction = some (.emit (burstRDP .ex1)) := by decide

theorem test_hypotheses_of_ClockPeriodsAndStableLines :
    Pins.ex1.Valid ∧ IsBurst .ex1 (burstWR2 .ex1 0xFE) :=
  ⟨by decide, .inr (.inr (.inr (.inl ⟨0xFE, rfl⟩)))⟩

theorem test_hypotheses_of_EmittedAlphabetIsClosed :
    Pins.ex1.Valid ∧ IsBurst .ex1 (burstRDP .ex1) ∧ (0x08 : Sample) ∈ burstRDP .ex1 :=
  ⟨by decide, .inr (.inr (.inr (.inr (.inr rfl)))), by decide⟩

/-- The last Sample of the address and both Samples of the trailer. -/
theorem test_hypotheses_of_TrailersDifferInMosiOnly :
    Pins.ex1.Valid ∧ 15 < 18 ∧ 15 < 16 ∧ 16 < 18 ∧ 16 ≤ 16 ∧ 17 < 18 ∧ 16 ≤ 17 := by decide

theorem test_hypotheses_of_DecodeOfEncode : Instr.wellFormed (.write 0xFE 0xFFFFFFFF) = true := rfl

theorem test_hypotheses_of_EncodeOfDecode : decode 0x2FF00000000 = .ok (.read 0xFF 0) := by decide

theorem test_hypotheses_of_SyncCompletes :
    (ready [quiet, arrives [1], quiet]).phase = .idle ∧
    (ready [quiet, arrives [1], quiet]).answers = .completes ⟨[], []⟩ :: .completes ⟨[1], []⟩ ::
      .completes ⟨[], []⟩ :: [] := by decide

/-- A fault in each of the three transactions. -/
theorem test_hypotheses_of_SyncFaults :
    (ready [.error 0 ⟨[], []⟩]).phase = .idle ∧
    (ready [.error 0 ⟨[], []⟩]).answers = .error 0 ⟨[], []⟩ :: [] ∧
    (ready [quiet, .error 66 ⟨[], []⟩]).answers = .completes ⟨[], []⟩ :: .error 66 ⟨[], []⟩ :: [] ∧
    (ready [quiet, quiet, .error 18 ⟨[], []⟩]).answers =
      .completes ⟨[], []⟩ :: .completes ⟨[], []⟩ :: .error 18 ⟨[], []⟩ :: [] := by decide

/-- The same two completed bursts serve both statements about a completed WRITE. -/
theorem test_hypotheses_of_WriteCompletes_and_WriteEmitsValueThenAddress :
    (synced [(2, 1)] [quiet, quiet]).phase = .idle ∧
    (synced [(2, 1)] [quiet, quiet]).answers = .completes ⟨[], []⟩ :: .completes ⟨[], []⟩ :: [] := by decide

theorem test_hypotheses_of_WriteStoresOneRegister :
    (synced [(2, 1)] [quiet, quiet]).Trusted ∧ (synced [(2, 1)] [quiet, quiet]).target = some [(2, 1)] ∧
    Memory.Wf [(2, 1)] ∧
    (synced [(2, 1)] [quiet, quiet]).answers = .completes ⟨[], []⟩ :: .completes ⟨[], []⟩ :: [] :=
  ⟨⟨rfl, rfl⟩, rfl, by decide, rfl⟩

/-- A fault in each of the two bursts, and a WRITE that is done. -/
theorem test_hypotheses_of_WriteFaults :
    (synced [] [.error 0 ⟨[], [(3, 1)]⟩]).phase = .idle ∧
    (synced [] [.error 0 ⟨[], [(3, 1)]⟩]).answers = .error 0 ⟨[], [(3, 1)]⟩ :: [] ∧
    (synced [] [quiet, .error 18 ⟨[], []⟩]).answers = .completes ⟨[], []⟩ :: .error 18 ⟨[], []⟩ :: [] ∧
    (after (exec (.write 0 0) (ready [quiet, quiet]))).done = true := by decide +kernel

/-- A READ that finds exactly the Samples it asks for, at the moment it asks. -/
theorem test_hypotheses_of_ReadCompletes_and_ReadRoundTrips :
    (ready ((readMoves 0 (pairsOf 5 0 0 4)).map .completes)).phase = .idle ∧
    (ready ((readMoves 0 (pairsOf 5 0 0 4)).map .completes)).target = none ∧
    (readMoves 0 (pairsOf 5 0 0 4)).length = 66 ∧ FetchesSupplied [] (readMoves 0 (pairsOf 5 0 0 4)) ∧
    (ready ((readMoves 0 (pairsOf 5 0 0 4)).map .completes)).answers =
      (readMoves 0 (pairsOf 5 0 0 4)).map .completes ++ [] :=
  ⟨rfl, rfl, by decide +kernel, by unfold FetchesSupplied; decide +kernel, (List.append_nil _).symm⟩

/-- D5, D6: a READ that fails in its fourth transaction, the first fetch of a pair; and in its first. -/
theorem test_hypotheses_of_ReadFaults :
    (ready [quiet, arrives [0], quiet, .short 1 ⟨[], []⟩]).phase = .idle ∧
    (ready [quiet, arrives [0], quiet, .short 1 ⟨[], []⟩]).answers =
      [EnvMove.mk [] [], ⟨[0], []⟩, ⟨[], []⟩].map .completes ++ .short 1 ⟨[], []⟩ :: [] ∧
    (∀ j < 3 / 2, 2 * j + 1 ≤ (([] : List Sample) ++ ([EnvMove.mk [] [], ⟨[0], []⟩, ⟨[], []⟩].take
      (2 * j + 2)).flatMap EnvMove.arrived).length) ∧
    (ready [.error 0 ⟨[], []⟩]).answers = ([] : List EnvMove).map .completes ++ .error 0 ⟨[], []⟩ :: [] := by
  decide

theorem test_hypotheses_of_ReadOfIdealTarget :
    (synced [(3, 15)] ((readMoves 0 (pairsOf 0 0 0 0)).map .completes)).Trusted ∧
    (synced [(3, 15)] ((readMoves 0 (pairsOf 0 0 0 0)).map .completes)).target = some [(3, 15)] ∧
    (readMoves 0 (pairsOf 0 0 0 0)).length = 66 ∧ FetchesSupplied [] (readMoves 0 (pairsOf 0 0 0 0)) ∧
    (synced [(3, 15)] ((readMoves 0 (pairsOf 0 0 0 0)).map .completes)).answers =
      (readMoves 0 (pairsOf 0 0 0 0)).map .completes ++ [] :=
  ⟨⟨rfl, rfl⟩, rfl, by decide +kernel, by unfold FetchesSupplied; decide +kernel, (List.append_nil _).symm⟩

theorem test_hypotheses_of_WriteThenReadReturnsTheValue :
    (synced [(3, 15)] (quiet :: quiet :: (readMoves 0 (pairsOf 0 0 0 0)).map .completes)).Trusted ∧
    (synced [(3, 15)] (quiet :: quiet :: (readMoves 0 (pairsOf 0 0 0 0)).map .completes)).target =
      some [(3, 15)] ∧
    Memory.Wf [(3, 15)] ∧ (readMoves 0 (pairsOf 0 0 0 0)).length = 66 ∧
    FetchesSupplied ([] ++ [] ++ []) (readMoves 0 (pairsOf 0 0 0 0)) ∧
    (synced [(3, 15)] (quiet :: quiet :: (readMoves 0 (pairsOf 0 0 0 0)).map .completes)).answers =
      .completes ⟨[], []⟩ :: .completes ⟨[], []⟩ :: (readMoves 0 (pairsOf 0 0 0 0)).map .completes ++ [] :=
  ⟨⟨rfl, rfl⟩, rfl, by decide, by decide +kernel, by unfold FetchesSupplied; decide +kernel,
    (List.append_nil _).symm⟩

/-- D1 and D2: other bits differ, the MISO flag (04) of the second Sample does not. -/
theorem test_hypotheses_of_OnlySecondMisoIsRead :
    (inPhase .rdFetch []).phase = .rdFetch ∧ (inPhase .rdFetch []).target = none ∧
    ([0x00, 0x04] : List Sample) ++ (EnvMove.mk [] []).arrived = 0x00 :: 0x04 :: [] ∧
    ([0xFF] : List Sample) ++ (EnvMove.mk [0xFF] []).arrived = 0xFF :: 0xFF :: [] ∧
    (0x04 : Sample).getLsbD (inPhase .rdFetch []).pins.miso = (0xFF : Sample).getLsbD (inPhase .rdFetch []).pins.miso := by
  decide

theorem test_hypotheses_of_BurstOfEachPhase :
    ∀ p ∈ [Phase.syW1, .syW2, .wrW1, .wrW2, .rdW1, .rdPulse], (inPhase p []).phase = p ∧
      (inPhase p []).phase = (inPhase p [quiet]).phase ∧ (inPhase p []).addrQ = (inPhase p [quiet]).addrQ ∧
      (inPhase p []).valueQ = (inPhase p [quiet]).valueQ ∧ (inPhase p []).pins = (inPhase p [quiet]).pins := by decide

/-- A word of each `op`. -/
theorem test_hypotheses_of_AcceptanceOfACommand :
    ((ready []).present 0x0AB12345678).phase = .idle ∧
    ((ready []).present 0x0AB12345678).host = .command 0x0AB12345678 :: [] ∧
    (0x0AB12345678#42).extractLsb' 40 2 = 0 ∧ (0x102DEADBEEF#42).extractLsb' 40 2 = 1 ∧
    (0x2FF00000000#42).extractLsb' 40 2 = 2 ∧ (0x31200000034#42).extractLsb' 40 2 = 3 := by decide

/-- Each phase of the statement, with an answer; in RD_DISCARD one Sample is there to fetch. -/
theorem test_hypotheses_of_StepThroughThePhases :
    (inPhase .syPurge [quiet]).answers = .completes ⟨[], []⟩ :: [] ∧ (inPhase .syPurge [quiet]).phase = .syPurge ∧
    (inPhase .syW1 [quiet]).phase = .syW1 ∧ (inPhase .wrW1 [quiet]).phase = .wrW1 ∧
    (inPhase .rdW1 [quiet]).phase = .rdW1 ∧ (inPhase .rdPulse [quiet]).phase = .rdPulse ∧
    (inPhase .rdDiscard [arrives [9]]).phase = .rdDiscard ∧
    (inPhase .rdDiscard [arrives [9]]).retBuf ++ (EnvMove.mk [9] []).arrived = 9 :: [] := by decide

theorem test_hypotheses_of_LastBurstEndsTheOperation :
    (inPhase .syW2 [quiet]).answers = .completes ⟨[], []⟩ :: [] ∧ (inPhase .syW2 [quiet]).phase = .syW2 ∧
    (inPhase .wrW2 [quiet]).answers = .completes ⟨[], []⟩ :: [] ∧ (inPhase .wrW2 [quiet]).phase = .wrW2 := by decide

/-- The last round-trip but one, and the last. -/
theorem test_hypotheses_of_RoundTripCountsToThirtyTwo :
    (∀ n ∈ ([0, 30, 31] : List (BitVec 6)),
      ({ inPhase .rdFetch [arrives [0, 4]] with bitcnt := n }).phase = .rdFetch ∧
      ({ inPhase .rdFetch [arrives [0, 4]] with bitcnt := n }).target = none ∧ n.toNat < 32 ∧
      ({ inPhase .rdFetch [arrives [0, 4]] with bitcnt := n }).answers = .completes ⟨[0, 4], []⟩ :: [] ∧
      ({ inPhase .rdFetch [arrives [0, 4]] with bitcnt := n }).retBuf ++ [0, 4] = 0 :: 4 :: []) := by decide

/-- The three ways a transaction fails: an error, a short count, a fetch that finds too few. -/
theorem test_hypotheses_of_FaultEntry :
    ((inPhase .wrW2 [.error 3 ⟨[], []⟩]).transaction = some (.emit (burstWR2 .ex1 0)) ∧
      (inPhase .wrW2 [.error 3 ⟨[], []⟩]).Failing) ∧
    ((inPhase .rdPulse [.short 1 ⟨[], []⟩]).transaction = some (.emit (burstRDP .ex1)) ∧
      (inPhase .rdPulse [.short 1 ⟨[], []⟩]).Failing) ∧
    ((inPhase .rdFetch [arrives [4]]).transaction = some (.fetch 2) ∧ (inPhase .rdFetch [arrives [4]]).Failing) :=
  ⟨⟨rfl, trivial⟩, ⟨rfl, trivial⟩, rfl, by show 1 < 2; decide⟩

theorem test_hypotheses_of_PartialEffectOfAFailedTransaction :
    (inPhase .rdPulse [.error 1 ⟨[], []⟩]).answers = .error 1 ⟨[], []⟩ :: [] ∧
    (inPhase .rdPulse [.error 1 ⟨[], []⟩]).transaction = some (.emit (burstRDP .ex1)) ∧
    (inPhase .rdFetch [.error 1 ⟨[7], []⟩]).answers = .error 1 ⟨[7], []⟩ :: [] ∧
    (inPhase .rdFetch [.error 1 ⟨[7], []⟩]).transaction = some (.fetch 2) ∧ 1 < 2 := by decide

/-- A pulse and a fetch kept waiting. -/
theorem test_hypotheses_of_HangWhileNotCompleted :
    (inPhase .rdPulse [.notYet 0 ⟨[5], []⟩, .notYet 1 ⟨[], []⟩, quiet]).busy = true ∧
    (inPhase .rdPulse [.notYet 0 ⟨[5], []⟩, .notYet 1 ⟨[], []⟩, quiet]).answers =
      ([(0, ⟨[5], []⟩), (1, ⟨[], []⟩)].map fun w : Nat × EnvMove => .notYet w.1 w.2) ++ [quiet] ∧
    (inPhase .rdPulse []).transaction = some (.emit (burstRDP .ex1)) ∧
    (inPhase .rdFetch []).transaction = some (.fetch 2) := by decide

/-- A pulse of which the first Sample is out: kept waiting, failed, cut short. -/
theorem test_hypotheses_of_LinesGoOnInListOrder :
    (pulsing []).transaction = some (.emit (burstRDP .ex1)) ∧ (pulsing []).driven < (burstRDP .ex1).length ∧
    (pulsing [.notYet 1 ⟨[], []⟩]).answers = .notYet 1 ⟨[], []⟩ :: [] ∧
    (pulsing [.error 0 ⟨[], []⟩]).answers = .error 0 ⟨[], []⟩ :: [] ∧
    (pulsing [.short 1 ⟨[], []⟩]).answers = .short 1 ⟨[], []⟩ :: [] := by decide

/-- The falling edge of the pulse. -/
theorem test_hypotheses_of_LinesStableAcrossFallingEdge :
    (pulsing []).Inv ∧ asserted (clockFlag .ex1) ((pulsing []).linesDuring 0) = true ∧
    asserted (clockFlag .ex1) ((pulsing []).linesDuring 1) = false := by
  refine ⟨⟨by decide, by decide, fun _ => by decide, by decide, by decide, .inr (by decide),
    .inr ⟨burstRDP .ex1, by decide⟩, ?_, by decide, ?_⟩, by decide, by decide⟩
  · intro e he; exact absurd he (List.not_mem_nil)
  · intro t ht; cases ht

/-- Q3. -/
theorem test_hypotheses_of_BusyBlockAcceptsNothing : (inPhase .wrW1 [quiet]).busy = true := by decide

theorem test_hypotheses_of_ExecIsTheSequencerRun : (ready [quiet]).phase = .idle := rfl

/-- A WRITE kept waiting in its second burst is busy; 66 answers none of which keeps it waiting. -/
theorem test_hypotheses_of_OperationEndsOrWaits :
    (ready [quiet, .notYet 0 ⟨[], []⟩]).phase = .idle ∧
    (∃ t, exec (.write 1 2) (ready [quiet, .notYet 0 ⟨[], []⟩]) = .next t ∧ t.busy = true) ∧
    (ready (List.replicate 66 quiet)).phase = .idle ∧ 66 ≤ (ready (List.replicate 66 quiet)).answers.length ∧
    (∀ n m, Answer.notYet n m ∉ (ready (List.replicate 66 quiet)).answers) :=
  ⟨rfl, ⟨_, rfl, rfl⟩, rfl, by decide, fun n m h => by simp [ready, quiet] at h⟩

/-- As many completed answers as each operation has transactions. -/
theorem test_hypotheses_of_StepsOfACompletedOperation :
    (ready [quiet, quiet, quiet]).phase = .idle ∧
    (ready [quiet, quiet, quiet]).answers = (List.replicate 3 (EnvMove.mk [] [])).map .completes ++ [] ∧
    (ready [quiet, quiet]).answers = (List.replicate 2 (EnvMove.mk [] [])).map .completes ++ [] ∧
    (ready ((readMoves 0 (pairsOf 5 0 0 4)).map .completes)).answers =
      (readMoves 0 (pairsOf 5 0 0 4)).map .completes ++ [] ∧
    (readMoves 0 (pairsOf 5 0 0 4)).length = 66 ∧ FetchesSupplied [] (readMoves 0 (pairsOf 5 0 0 4)) :=
  ⟨rfl, rfl, rfl, (List.append_nil _).symm, by decide +kernel, by unfold FetchesSupplied; decide +kernel⟩

/-- A step with a `done`, a step without that is no reset, and a reset. -/
theorem test_hypotheses_of_OneResultPerDone :
    (∃ t, step (inPhase .wrW2 [quiet]) = .next t ∧ t.done = true) ∧
    (∃ t, step (inPhase .wrW1 [quiet]) = .next t ∧ t.done = false ∧ ¬ (inPhase .wrW1 [quiet]).Resetting) ∧
    (∃ t, step (inPhase .wrW1 [.rst ⟨[], []⟩]) = .next t ∧ (inPhase .wrW1 [.rst ⟨[], []⟩]).Resetting) :=
  ⟨⟨_, rfl, rfl⟩, ⟨_, rfl, rfl, fun h => by
    rcases h with ⟨-, m, h⟩ | ⟨h, -⟩
    · cases h
    · cases h⟩, _, rfl, .inl ⟨rfl, _, rfl⟩⟩

/-- A step that is no reset, and a reset of an idle block. -/
theorem test_hypotheses_of_TraceOnlyGrows :
    (∃ t, step (inPhase .wrW1 [quiet]) = .next t ∧ ¬ (inPhase .wrW1 [quiet]).Resetting) ∧
    (∃ t, step { ready [] with host := [.rst ⟨[5], []⟩] } = .next t ∧
      ({ ready [] with host := [.rst ⟨[5], []⟩] }).Resetting) :=
  ⟨⟨_, rfl, fun h => by
    rcases h with ⟨-, m, h⟩ | ⟨h, -⟩
    · cases h
    · cases h⟩, _, rfl, .inr ⟨rfl, _, _, rfl⟩⟩

theorem test_hypotheses_of_OnlySyncPurges :
    ∃ t, exec (.write 1 2) (ready [quiet, quiet]) = .next t ∨ exec (.read 1 2) (ready [quiet, quiet]) = .next t :=
  ⟨_, .inl rfl⟩

/-- An idle block, a burst, a fetch. -/
theorem test_hypotheses_of_PortsFollowTheTransaction :
    (ready []).cmdReady = true ∧ (inPhase .rdPulse []).cmdReady = false ∧
    (inPhase .rdPulse []).txValid = true ∧ (inPhase .rdFetch []).rxReq = true := by decide

theorem test_hypotheses_of_LinesShowTheBurstInOrder :
    (pulsing [quiet]).transaction = some (.emit (burstRDP .ex1)) ∧
    (pulsing [quiet]).driven + 0 < (burstRDP .ex1).length ∧
    (pulsing [quiet]).answers = .completes ⟨[], []⟩ :: [] ∧
    ∃ t, step (pulsing [quiet]) = .next t :=
  ⟨rfl, by decide, rfl, _, rfl⟩

/-- Two states that differ in every register of the block. -/
theorem test_hypotheses_of_NoStateBetweenOperations :
    ∃ s u t w : State, s.addrQ ≠ u.addrQ ∧ s.valueQ ≠ u.valueQ ∧ s.acc ≠ u.acc ∧ s.bitcnt ≠ u.bitcnt ∧
      s.rdata ≠ u.rdata ∧ s.status ≠ u.status ∧ s.linkPhase ≠ u.linkPhase ∧ s.lineOut ≠ u.lineOut ∧
      s.phase = .idle ∧ u.phase = .idle ∧ s.target = none ∧ u.target = none ∧ s.pins = u.pins ∧
      s.answers = u.answers ∧ s.draws = u.draws ∧ s.retBuf = u.retBuf ∧ s.trace = u.trace ∧
      exec (.write 1 2) s = .next t ∧ exec (.write 1 2) u = .next w :=
  ⟨ready [quiet, quiet],
    { ready [quiet, quiet] with
      addrQ := 1
      valueQ := 1
      acc := 1
      bitcnt := 1
      rdata := 1
      status := .illegalCommand
      linkPhase := .synced
      lineOut := 1 }, _, _, by decide, by decide, by decide, by decide, by decide, by decide, by decide, by decide,
    rfl, rfl, rfl, rfl, rfl, rfl, rfl, rfl, rfl, rfl, rfl⟩

theorem test_hypotheses_of_OperationFrame :
    (ready (List.replicate 66 quiet)).phase = .idle ∧ 66 ≤ (ready (List.replicate 66 quiet)).answers.length ∧
    (∀ m, Answer.rst m ∉ (ready (List.replicate 66 quiet)).answers) ∧
    ∃ t, exec (.sync 1 2) (ready (List.replicate 66 quiet)) = .next t :=
  ⟨rfl, by decide, fun m h => by simp [ready, quiet] at h, _, rfl⟩

theorem test_hypotheses_of_StepRunsTheDecodedOperation :
    ((ready []).present 0x20200000000).phase = .idle ∧
    ((ready []).present 0x20200000000).host = .command 0x20200000000 :: [] ∧
    decode 0x20200000000 = .ok (.read 0x02 0) ∧ Instr.wellFormed (.read 0x02 0) = true := by decide

/-- Q1 and Q2. -/
theorem test_hypotheses_of_ReservedWordIsIllegalCommand :
    (((ready []).present 0x30000000000).phase = .idle ∧
      ((ready []).present 0x30000000000).host = .command 0x30000000000 :: [] ∧
      0x30000000000#42 &&& 0x30000000000#42 = 0x30000000000#42) ∧
    (((ready []).present 0x31200000034).phase = .idle ∧
      ((ready []).present 0x31200000034).host = .command 0x31200000034 :: [] ∧
      0x31200000034#42 &&& 0x30000000000#42 = 0x30000000000#42) := by decide

/-- The host presents nothing, by having no move left and by a move of its own. -/
theorem test_hypotheses_of_IdleBlockHolds :
    (ready []).phase = .idle ∧ (ready []).host = [] ∧
    ({ ready [] with host := [.nothing] }).host = .nothing :: [] := by decide

/-- `rst` during an operation, and while idle. -/
theorem test_hypotheses_of_ResetAbortsTheOperation :
    ((inPhase .wrW2 [.rst ⟨[], []⟩]).busy = true ∧ (inPhase .wrW2 [.rst ⟨[], []⟩]).answers = .rst ⟨[], []⟩ :: []) ∧
    (({ ready [] with host := [.rst ⟨[5], []⟩] }).phase = .idle ∧
      ({ ready [] with host := [.rst ⟨[5], []⟩] }).host = .rst ⟨[5], []⟩ :: []) := by decide

/-- A state inside the read loop that meets the invariant, and its step. -/
theorem test_hypotheses_of_StepKeepsInvariant :
    ({ inPhase .rdFetch [arrives [0, 4]] with bitcnt := 31, target := some [(3, 15)] }).Inv ∧
    ∃ t, step { inPhase .rdFetch [arrives [0, 4]] with bitcnt := 31, target := some [(3, 15)] } = .next t := by
  refine ⟨⟨by decide, by decide, fun _ => by decide, by decide, by decide, .inr (by decide), .inl rfl, ?_, by decide,
    ?_⟩, _, rfl⟩
  · intro e he; exact absurd he (List.not_mem_nil)
  · intro t ht; injection ht with ht; subst ht; decide

end Sys2Proof.Tests
end

section
/-! PROOFS. Which flags a Sample asserts (R8), and the level of STROBE over a burst (R66). -/

namespace Sys2Proof.Machine

/-! ### The flags of a Sample -/

/-- R8: a flag is asserted where the bit at its position is 1. -/
theorem asserted_flagMask (i : Fin 8) (x : Sample) : asserted (flagMask i) x = x.getLsbD i := by
  have hmask : flagMask i = BitVec.twoPow 8 i := (BitVec.twoPow_eq 8 i).symm
  rw [asserted, hmask, BitVec.and_twoPow]
  have hne : BitVec.twoPow 8 i ≠ 0#8 := by revert i; decide
  cases x.getLsbD i <;> simp [hne]

theorem flagMask_getLsbD (i j : Fin 8) : (flagMask j).getLsbD i = decide (i = j) := by
  revert i j; decide

/-- R60: a flag asserts its own position and no other. -/
@[simp] theorem asserted_flagMask_flagMask (i j : Fin 8) :
    asserted (flagMask i) (flagMask j) = decide (i = j) := by
  rw [asserted_flagMask, flagMask_getLsbD]

@[simp] theorem asserted_zero (flag : Sample) : asserted flag 0#8 = false := by simp [asserted]

@[simp] theorem asserted_flagMask_or (i : Fin 8) (x y : Sample) :
    asserted (flagMask i) (x ||| y) = (asserted (flagMask i) x || asserted (flagMask i) y) := by
  simp only [asserted_flagMask, BitVec.getLsbD_or]

/-! ### STROBE in bit-pairs, frames and trailers -/

/-- R65: STROBE is 1 in both Samples of a bit-pair. -/
theorem bitPair_strobe {p : Pins} {b : Bool} {x : Sample} (h : x ∈ bitPair p b) :
    asserted (strobeFlag p) x = true := by
  rcases List.mem_pair.mp h with rfl | rfl <;> simp [strobeFlag]

theorem bitFrame_strobe {p : Pins} {value width : Nat} {x : Sample} (h : x ∈ bitFrame p value width) :
    asserted (strobeFlag p) x = true := by
  obtain ⟨b, hx⟩ := mem_bitFrame h
  exact bitPair_strobe hx

/-- R69: the framing pair is the bit-pair of a 1. -/
theorem framingPair_eq_bitPair (p : Pins) : framingPair p = bitPair p true := rfl

/-- R70: the sampling pulse is the bit-pair of a 0. -/
theorem burstRDP_eq_bitPair (p : Pins) : burstRDP p = bitPair p false := by simp [burstRDP, bitPair]

theorem burstSY1_strobe {p : Pins} {x : Sample} (h : x ∈ burstSY1 p) :
    asserted (strobeFlag p) x = true := by
  rcases List.mem_append.mp h with hframe | hpair
  · exact bitFrame_strobe hframe
  · rw [framingPair_eq_bitPair] at hpair
    exact bitPair_strobe hpair

theorem burstRDP_strobe {p : Pins} {x : Sample} (h : x ∈ burstRDP p) :
    asserted (strobeFlag p) x = true := by
  rw [burstRDP_eq_bitPair] at h
  exact bitPair_strobe h

/-- R68: STROBE is 0 in both Samples of the commit trailer. -/
theorem commitTrailer_strobe {p : Pins} (hp : p.Valid) {x : Sample} (h : x ∈ commitTrailer p) :
    asserted (strobeFlag p) x = false := by
  obtain ⟨-, -, hclock, -, hmosi, -⟩ := hp
  rcases List.mem_pair.mp h with rfl | rfl <;>
    simp [strobeFlag, clockFlag, mosiFlag, hclock.symm, hmosi.symm]

/-- R68: STROBE is 0 in both Samples of the read-request trailer. -/
theorem readTrailer_strobe {p : Pins} (hp : p.Valid) {x : Sample} (h : x ∈ readTrailer p) :
    asserted (strobeFlag p) x = false := by
  obtain ⟨-, -, hclock, -⟩ := hp
  rcases List.mem_pair.mp h with rfl | rfl <;> simp [strobeFlag, clockFlag, hclock.symm]

/-! ### STROBE over an address burst -/

/-- STROBE marks the 16 Samples of the address and is low in the two of the trailer after them. -/
def StrobeMarksAddress (p : Pins) (burst : List Sample) : Prop :=
  burst.length = 18 ∧ ∀ k < 18, (asserted (strobeFlag p) (burst.getD k 0) = true ↔ k < 16)

theorem strobeMarksAddress_append {p : Pins} {trailer : List Sample} (a : Nat)
    (hlen : trailer.length = 2) (hlow : ∀ x ∈ trailer, asserted (strobeFlag p) x = false) :
    StrobeMarksAddress p (bitFrame p a addrW ++ trailer) := by
  have hframe : (bitFrame p a addrW).length = 16 := bitFrame_length p a addrW
  refine ⟨by rw [List.length_append, hframe, hlen], fun k hk => ?_⟩
  rcases Nat.lt_or_ge k 16 with hlt | hge
  · have hk' : k < (bitFrame p a addrW).length := by omega
    rw [List.getD_append _ _ _ _ hk', List.getD_eq_getElem _ _ hk']
    exact iff_of_true (bitFrame_strobe (List.getElem_mem hk')) hlt
  · have hk' : k - (bitFrame p a addrW).length < trailer.length := by omega
    rw [List.getD_append_right _ _ _ _ (by omega), List.getD_eq_getElem _ _ hk',
      hlow _ (List.getElem_mem hk')]
    exact iff_of_false Bool.false_ne_true (by omega)

theorem burstWR2_strobe {p : Pins} (hp : p.Valid) (a : Addr) : StrobeMarksAddress p (burstWR2 p a) :=
  strobeMarksAddress_append a.toNat rfl fun _ => commitTrailer_strobe hp

theorem burstSY2_strobe {p : Pins} (hp : p.Valid) : StrobeMarksAddress p (burstSY2 p) :=
  burstWR2_strobe hp sentinelAddr

theorem burstRD1_strobe {p : Pins} (hp : p.Valid) (a : Addr) : StrobeMarksAddress p (burstRD1 p a) :=
  strobeMarksAddress_append a.toNat rfl fun _ => readTrailer_strobe hp

/-- Settles O6, by the burst of each phase: an address burst ends in a trailer with STROBE low, and
every other burst is made of bit-pairs. -/
theorem strobeLowExactlyInTrailers : Obligations.StrobeLowExactlyInTrailers := by
  intro s burst hp hburst
  rw [State.transaction] at hburst
  cases hphase : s.phase <;> rw [hphase] at hburst <;> cases hburst
  case syW1 => exact fun _ => burstSY1_strobe
  case syW2 => exact burstSY2_strobe hp
  case wrW1 => exact fun _ => bitFrame_strobe
  case wrW2 => exact burstWR2_strobe hp s.addrQ
  case rdW1 => exact burstRD1_strobe hp s.addrQ
  case rdPulse => exact fun _ => burstRDP_strobe

end Sys2Proof.Machine
end

section
/-! PROOFS. The bit-frame encoder: its Samples one by one (R88, R89) and its decode rule (R93). -/

namespace Sys2Proof.Machine

/-- R90: up to `MAX_W` bits `encode_bits` answers the loop's frame. -/
theorem encodeBits_of_le (p : Pins) (value : Nat) {width : Nat} (h : width ≤ 32) :
    encodeBits p value width = some (bitFrame p value width) :=
  if_pos (decide_eq_true h)

/-! ### The two halves of a bit-pair -/

/-- R60: clearing one flag leaves a flag at another position as it is. -/
theorem flagMask_and_not_of_ne {i j : Fin 8} (h : i ≠ j) :
    flagMask i &&& ~~~flagMask j = flagMask i := by
  revert i j; decide

/-- R65: the first Sample of a bit-pair is STROBE, CLOCK and the MOSI flag of the bit. -/
theorem bitPair_getElem?_zero (p : Pins) (b : Bool) :
    (bitPair p b)[0]? = some (strobeFlag p ||| clockFlag p ||| (if b then mosiFlag p else 0)) := rfl

/-- R88: the second Sample of a bit-pair is the first with CLOCK cleared. -/
theorem bitPair_getElem?_one {p : Pins} (hp : p.Valid) (b : Bool) :
    (bitPair p b)[1]? = (bitPair p b)[0]?.map (· &&& ~~~clockFlag p) := by
  obtain ⟨hclockMosi, -, hclockStrobe, -⟩ := hp
  have hstrobe : strobeFlag p &&& ~~~clockFlag p = strobeFlag p :=
    flagMask_and_not_of_ne hclockStrobe.symm
  have hmosi : mosiFlag p &&& ~~~clockFlag p = mosiFlag p := flagMask_and_not_of_ne hclockMosi.symm
  cases b <;> simp [bitPair, BitVec.and_or_distrib_right, hstrobe, hmosi]

/-- Settles O1, by the pair of each bit (`bitFrame_pair`): its first Sample is the formula of R88, its
second the first with CLOCK cleared. -/
theorem encodeBitsSampleBySample : Obligations.EncodeBitsSampleBySample := by
  intro p value width hp hwidth
  refine ⟨_, encodeBits_of_le p value hwidth, bitFrame_length p value width, fun i hi => ?_⟩
  obtain ⟨hfirst, hsecond⟩ := bitFrame_pair p value width i hi
  rw [hfirst, hsecond]
  exact ⟨bitPair_getElem?_zero p _, bitPair_getElem?_one hp _⟩

/-! ### Decoding, most significant bit first -/

/-- The first pair of a frame carries its most significant bit. -/
theorem bitFrame_succ_front (p : Pins) (value width : Nat) :
    bitFrame p value (width + 1) = bitPair p (value.testBit width) ++ bitFrame p value width := by
  simp only [bitFrame, List.range_succ_eq_map, List.flatMap_cons, List.flatMap_map]
  simp [Nat.sub_sub, Nat.add_comm]

/-- R65: the MOSI flag of a bit-pair's first Sample is the bit. -/
theorem bitPair_mosi {p : Pins} (hp : p.Valid) (b : Bool) (frame : List Sample) :
    asserted (mosiFlag p) ((bitPair p b ++ frame).getD 0 0) = b := by
  obtain ⟨hclockMosi, -, -, -, hmosiStrobe, -⟩ := hp
  cases b <;> simp [bitPair, mosiFlag, strobeFlag, clockFlag, hclockMosi.symm, hmosiStrobe]

/-- A bit-pair in front of a frame adds the weight of its bit. -/
theorem decodeFrame_bitPair_append {p : Pins} (hp : p.Valid) (b : Bool) (frame : List Sample)
    (width : Nat) :
    decodeFrame p (bitPair p b ++ frame) (width + 1) = 2 ^ width * b.toNat + decodeFrame p frame width := by
  have hrest (i : Nat) : (bitPair p b ++ frame).getD (2 * (i + 1)) 0 = frame.getD (2 * i) 0 := rfl
  have hweight (i : Nat) : width - 1 - i = width - (i + 1) := by omega
  simp only [decodeFrame, List.range_succ_eq_map, List.map_cons, List.map_map, List.sum_cons,
    Function.comp_def, Nat.succ_eq_add_one, Nat.mul_zero, bitPair_mosi hp, hrest, hweight,
    Nat.add_sub_cancel, Nat.sub_zero]
  cases b <;> simp

/-- R91, R93: a frame of any width decodes to the bits of the value below that width. -/
theorem decodeFrame_bitFrame {p : Pins} (hp : p.Valid) (value width : Nat) :
    decodeFrame p (bitFrame p value width) width = value % 2 ^ width := by
  induction width with
  | zero => simp [decodeFrame, Nat.mod_one]
  | succ width ih =>
    calc decodeFrame p (bitFrame p value (width + 1)) (width + 1)
      _ = 2 ^ width * (value.testBit width).toNat + value % 2 ^ width := by
        rw [bitFrame_succ_front, decodeFrame_bitPair_append hp, ih]
      _ = value % 2 ^ (width + 1) := by rw [Nat.toNat_testBit, Nat.mod_pow_succ, Nat.add_comm]

/-- Settles O3: a value below `2 ^ width` has no bit that `decodeFrame_bitFrame` drops. -/
theorem frameDecodesToItsValue : Obligations.FrameDecodesToItsValue := by
  intro p value width hp hwidth hvalue
  refine ⟨_, encodeBits_of_le p value hwidth, ?_⟩
  rw [decodeFrame_bitFrame hp, Nat.mod_eq_of_lt hvalue]

end Sys2Proof.Machine
end

section
/-! PROOFS. The bursts of a WRITE (R106): what a completed burst leaves behind, the block between the two
bursts, and the trace of the whole operation. -/

namespace Sys2Proof.Machine

/-! ### A completed burst -/

/-- R10: a completed burst is appended to the trace; binding, operand latches and coming answers stay. -/
theorem State.complete_emit_keeps (s : State) (burst : List Sample) (m : EnvMove) :
    (s.complete (.emit burst) m).pins = s.pins ∧ (s.complete (.emit burst) m).addrQ = s.addrQ ∧
    (s.complete (.emit burst) m).valueQ = s.valueQ ∧ (s.complete (.emit burst) m).answers = s.answers ∧
    (s.complete (.emit burst) m).trace = s.trace ++ [.write burst] := by
  obtain ⟨hpins, -, htrace, hanswers, -, -, -, haddr, hvalue⟩ := State.advance_keeps
    (((s.withBuffer (s.retBuf ++ m.arrived)).driveLines burst).record (.write burst)) [] m
  exact ⟨hpins, haddr, hvalue, hanswers, htrace⟩

/-- R125, row `WR_W1`: the address burst comes next. -/
theorem State.complete_emit_wrW1 {s : State} (h : s.phase = .wrW1) (burst : List Sample) (m : EnvMove) :
    (s.complete (.emit burst) m).phase = .wrW2 := by
  simp [State.complete, State.advance, h]

/-- R125, row `WR_W2`: the operation ends with OK. -/
theorem State.complete_emit_wrW2 {s : State} (h : s.phase = .wrW2) (burst : List Sample) (m : EnvMove) :
    (s.complete (.emit burst) m).phase = .idle ∧ (s.complete (.emit burst) m).status = .ok := by
  simp [State.complete, State.advance, h]

/-! ### A WRITE whose bursts complete -/

/-- The block that has accepted a WRITE and whose value burst has completed. -/
def State.valueSent (s : State) (a : Addr) (v : Value) (m : EnvMove) : State :=
  (s.accept .wrW1 a v).takeAnswer.complete (.emit (burstWR1 s.pins v)) m

theorem State.valueSent_phase (s : State) (a : Addr) (v : Value) (m : EnvMove) :
    (s.valueSent a v m).phase = .wrW2 :=
  State.complete_emit_wrW1 rfl _ m

theorem State.valueSent_answers (s : State) (a : Addr) (v : Value) (m : EnvMove) :
    (s.valueSent a v m).answers = s.answers.tail := by
  obtain ⟨-, -, -, hanswers, -⟩ :=
    State.complete_emit_keeps (s.accept .wrW1 a v).takeAnswer (burstWR1 s.pins v) m
  exact hanswers

theorem State.valueSent_trace (s : State) (a : Addr) (v : Value) (m : EnvMove) :
    (s.valueSent a v m).trace = s.trace ++ [.write (burstWR1 s.pins v)] := by
  obtain ⟨-, -, -, -, htrace⟩ :=
    State.complete_emit_keeps (s.accept .wrW1 a v).takeAnswer (burstWR1 s.pins v) m
  exact htrace

/-- R126: what the block sends after the value is the address latched at acceptance. -/
theorem State.valueSent_transaction (s : State) (a : Addr) (v : Value) (m : EnvMove) :
    (s.valueSent a v m).transaction = some (.emit (burstWR2 s.pins a)) := by
  obtain ⟨hpins, haddr, -⟩ :=
    State.complete_emit_keeps (s.accept .wrW1 a v).takeAnswer (burstWR1 s.pins v) m
  rw [State.transaction, s.valueSent_phase, State.valueSent, hpins, haddr]
  rfl

/-- R106: a WRITE whose two transactions complete is the value burst, then the address burst. -/
theorem exec_write_completes {s : State} (a : Addr) (v : Value) {m0 m1 : EnvMove} {rest : List Answer}
    (hs : s.phase = .idle) (ha : s.answers = .completes m0 :: .completes m1 :: rest) :
    exec (.write a v) s =
      .next ((s.valueSent a v m0).takeAnswer.complete (.emit (burstWR2 s.pins a)) m1) := by
  have hanswers : (s.valueSent a v m0).answers = .completes m1 :: rest := by
    rw [s.valueSent_answers, ha, List.tail_cons]
  have hfirst : State.runOperation 2 (s.accept .wrW1 a v) = State.runOperation 1 (s.valueSent a v m0) :=
    State.run_completes 1 rfl ha
  rw [exec_write, State.perform_of_idle hs, hfirst]
  exact congrArg _ (State.run_completes 0 (s.valueSent_transaction a v m0) hanswers)

/-- Settles O17, by the two completed bursts (`exec_write_completes`): the first leaves the block in
`WR_W2` with the value burst in the trace, the second ends the operation and adds the address burst. -/
theorem writeEmitsValueThenAddress : Obligations.WriteEmitsValueThenAddress := by
  intro s a v m0 m1 rest hs ha
  obtain ⟨-, -, -, hanswers, htrace⟩ :=
    State.complete_emit_keeps (s.valueSent a v m0).takeAnswer (burstWR2 s.pins a) m1
  obtain ⟨hphase, hstatus⟩ := State.complete_emit_wrW2 (s := (s.valueSent a v m0).takeAnswer)
    (s.valueSent_phase a v m0) (burstWR2 s.pins a) m1
  refine ⟨_, _, _, encodeBits_of_le s.pins v.toNat (Nat.le_refl 32),
    encodeBits_of_le s.pins a.toNat (by decide), bitFrame_length s.pins v.toNat 32,
    bitFrame_length s.pins a.toNat 8, exec_write_completes a v hs ha, hphase, ?_, hstatus, ?_⟩
  · rw [hanswers, State.takeAnswer_answers, s.valueSent_answers, ha, List.tail_cons, List.tail_cons]
  · rw [htrace, State.takeAnswer_trace, s.valueSent_trace, List.append_assoc]
    rfl

end Sys2Proof.Machine
end

section
/-! PROOFS. READ (43_read.md): the trace and the bits of a whole READ (R112), and what one round-trip
reads of the Samples it fetches (R113). -/

namespace Sys2Proof.Machine

/-! ### The whole READ -/

theorem State.returnedPairs_length (s : State) (k n : Nat) (stream : List Sample) :
    (s.returnedPairs k n stream).length = n := by
  simp [State.returnedPairs]

/-- R112: after 32 round-trips bit `31 - i` of the result is the MISO flag of the second Sample of
round-trip `i`. -/
theorem State.afterReadLoop_rdata_getLsbD (s : State) (stream : List Sample) (rest : List Answer)
    {rs : List (Sample × Sample)} (hrs : rs.length = 32) {i : Nat} (hi : i < 32) :
    (s.afterReadLoop 32 stream rest rs).rdata.getLsbD (31 - i) =
      asserted (misoFlag s.pins) (rs.getD i (0, 0)).2 := by
  have hbit := accumulate_getLsbD s.pins.miso rs s.acc hrs.le i (hrs ▸ hi)
  rw [hrs] at hbit
  exact hbit.trans (asserted_flagMask _ _).symm

/-- Settles O21, by the run of a READ (`exec_read_run`): its trace is that of the read loop behind the
address burst and the discard-read, its result the bits the loop accumulated. -/
theorem readRoundTrips : Obligations.ReadRoundTrips := by
  intro s a v ms rest hidle hlength hsupplied hanswers
  obtain ⟨stream, d, -, -, -, hrun⟩ := exec_read_run s a v ms rest hidle hlength hsupplied hanswers
  have hpairs := State.returnedPairs_length { s with addrQ := a } 0 32 (stream.drop 1)
  refine ⟨_, d, _, _, encodeBits_of_le s.pins a.toNat (by decide), hpairs, hrun, rfl, rfl, rfl,
    List.append_assoc .., rfl, rfl, fun i hi => ?_⟩
  exact State.afterReadLoop_rdata_getLsbD _ _ _ hpairs hi

/-! ### One round-trip -/

/-- R113: of the Samples fetched a round-trip reads the received bit alone. -/
theorem State.afterRoundTrip_congr (s : State) {fetched fetched' : List Sample}
    (h : receivedBit s.pins fetched = receivedBit s.pins fetched') :
    s.afterRoundTrip fetched = s.afterRoundTrip fetched' := by
  rw [State.afterRoundTrip, State.afterRoundTrip, h]

/-- R116: the accumulate step, whether or not the round-trip is the last one. -/
theorem State.afterRoundTrip_acc (s : State) (fetched : List Sample) :
    (s.afterRoundTrip fetched).acc = accumulate s.acc (receivedBit s.pins fetched) := by
  rcases State.afterRoundTrip_cases s fetched with ⟨-, h⟩ | ⟨-, h⟩ <;> rw [h] <;> rfl

/-- A round-trip does not read the trace. -/
theorem State.afterRoundTrip_withTrace (s : State) (trace : List Event) (fetched : List Sample) :
    ({ s with trace := trace } : State).afterRoundTrip fetched =
      { s.afterRoundTrip fetched with trace := trace } := by
  by_cases h : (s.bitcnt + 1).toNat < dataW
  · rw [State.afterRoundTrip, State.afterRoundTrip, if_pos h, if_pos h]; rfl
  · rw [State.afterRoundTrip, State.afterRoundTrip, if_neg h, if_neg h]; rfl

/-- R113: round-trips that receive the same bit lead to states that differ in the recorded fetch alone. -/
theorem State.afterRoundTrip_recorded_congr {s : State} {n : Nat} {fetched fetched' : List Sample}
    (h : receivedBit s.pins fetched = receivedBit s.pins fetched') :
    (s.record (.read n fetched')).afterRoundTrip fetched' =
      { (s.record (.read n fetched)).afterRoundTrip fetched with
        trace := s.trace ++ [.read n fetched'] } := by
  rw [State.afterRoundTrip_congr (s.record (.read n fetched)) h]
  exact State.afterRoundTrip_withTrace (s.record (.read n fetched)) _ fetched'

/-- R125, row `RD_FETCH`: the step in which the fetch of a round-trip completes, with no target
attached. -/
theorem step_rdFetch_completes {s : State} {m : EnvMove} {r0 r1 : Sample} {more : List Sample}
    {rest : List Answer} (hphase : s.phase = .rdFetch) (htarget : s.target = none)
    (hanswers : s.answers = .completes m :: rest) (hbuf : s.retBuf ++ m.arrived = r0 :: r1 :: more) :
    step s = .next (((s.takeAnswer.withBuffer more).record (.read 2 [r0, r1])).afterRoundTrip [r0, r1]) := by
  have htransaction : s.transaction = some (.fetch 2) := by
    rw [State.transaction, hphase]; rfl
  have hsupply : s.takeAnswer.retBuf ++ m.arrived = r0 :: r1 :: more := hbuf
  have henough : 2 ≤ (s.takeAnswer.retBuf ++ m.arrived).length := by rw [hsupply]; simp
  rw [step_of_busy (by simp [hphase]),
    State.transact_completes htransaction (State.nextAnswer_cons hanswers),
    State.complete_fetch henough, hsupply,
    State.answeredByTarget_of_none (s := s.takeAnswer) htarget, State.advance,
    State.record_phase, State.withBuffer_phase, State.takeAnswer_phase, hphase]
  rfl

/-- Settles O26: the two steps fetch different Samples with the same received bit
(`step_rdFetch_completes`), so they differ in the recorded fetch alone
(`State.afterRoundTrip_recorded_congr`). -/
theorem onlySecondMisoIsRead : Obligations.OnlySecondMisoIsRead := by
  intro s buf buf' m m' r0 r1 q0 q1 more rest hphase htarget hbuf hbuf' hmiso
  refine ⟨_, _, step_rdFetch_completes hphase htarget rfl hbuf,
    step_rdFetch_completes hphase htarget rfl hbuf', ?_, State.afterRoundTrip_acc _ _⟩
  refine State.afterRoundTrip_recorded_congr (fetched := [r0, r1]) ?_
  exact hmiso

end Sys2Proof.Machine
end

section
/-! PROOFS. The sequencer (44_sequencer.md): the transaction of a phase (R126). -/

namespace Sys2Proof.Machine

/-- R126: the transaction is that of the phase, at the operand latches. -/
theorem State.transaction_of_phase {s : State} {p : Phase} (h : s.phase = p) :
    s.transaction = transactionOf s.pins s.addrQ s.valueQ p := by
  rw [State.transaction, h]

/-- R126: nothing but phase, latches and pin binding enters the transaction. -/
theorem State.transaction_congr {s u : State} (hphase : s.phase = u.phase) (haddr : s.addrQ = u.addrQ)
    (hvalue : s.valueQ = u.valueQ) (hpins : s.pins = u.pins) : s.transaction = u.transaction := by
  rw [State.transaction, State.transaction, hphase, haddr, hvalue, hpins]

/-- Settles O27: each frame is the one `encode_bits` answers (`encodeBits_of_le`), and each phase emits
its burst of R71 (`State.transaction_of_phase`), which is that frame with its trailer. -/
theorem burstOfEachPhase : Obligations.BurstOfEachPhase := by
  have hword (p : Pins) (value : Nat) : encodeBits p value 32 = some (bitFrame p value 32) :=
    encodeBits_of_le p value le_rfl
  have hbyte (p : Pins) (value : Nat) : encodeBits p value 8 = some (bitFrame p value 8) :=
    encodeBits_of_le p value (by decide)
  refine ⟨fun s => ⟨_, _, _, _, hword _ _, hbyte _ _, hword _ _, hbyte _ _, ?syW1, ?syW2, ?wrW1, ?wrW2, ?rdW1,
    ?rdPulse⟩, fun _ _ => State.transaction_congr⟩
  case syW1 => exact State.transaction_of_phase
  case syW2 => exact State.transaction_of_phase
  case wrW1 => exact State.transaction_of_phase
  case wrW2 => exact State.transaction_of_phase
  case rdW1 => exact State.transaction_of_phase
  case rdPulse => exact State.transaction_of_phase

end Sys2Proof.Machine
end

section
/-! PROOFS. The command word (30_encoding.md R78 to R83): what each value of `op` decodes to, and the
word put together again from its fields. -/

namespace Sys2Proof

/-! ### Decoding by `op` (R79, R81) -/

theorem decode_of_op_zero {w : CmdWord} (h : opField w = 0) :
    decode w = .ok (.sync (addrField w) (valueField w)) := by
  rw [decode, h]; rfl

theorem decode_of_op_one {w : CmdWord} (h : opField w = 1) :
    decode w = .ok (.write (addrField w) (valueField w)) := by
  rw [decode, h]; rfl

theorem decode_of_op_two {w : CmdWord} (h : opField w = 2) :
    decode w = .ok (.read (addrField w) (valueField w)) := by
  rw [decode, h]; rfl

theorem decode_of_op_three {w : CmdWord} (h : opField w = 3) : decode w = .error .reservedOp := by
  rw [decode, h]; rfl

theorem op_cases (op : BitVec 2) : op = 0 ∨ op = 1 ∨ op = 2 ∨ op = 3 := by
  revert op; decide

/-- Settles O11: the fields of an operation's word are the operation's own (`Laws.Encoding`), and its
`op` selects it again. -/
theorem decodeOfEncode : Obligations.DecodeOfEncode := by
  intro i _
  cases i with
  | sync a v =>
    obtain ⟨hop, haddr, hvalue⟩ := Laws.Encoding.sync a v
    rw [decode_of_op_zero hop, haddr, hvalue]
  | write a v =>
    obtain ⟨hop, haddr, hvalue⟩ := Laws.Encoding.write a v
    rw [decode_of_op_one hop, haddr, hvalue]
  | read a v =>
    obtain ⟨hop, haddr, hvalue⟩ := Laws.Encoding.read a v
    rw [decode_of_op_two hop, haddr, hvalue]

/-! ### The word from its fields -/

/-- R83: the three fields hold all 42 bits. -/
theorem append_fields (w : CmdWord) : opField w ++ (addrField w ++ valueField w) = w := by
  have hlow : addrField w ++ valueField w = w.extractLsb' 0 40 :=
    BitVec.extractLsb'_append_extractLsb'_eq_extractLsb' rfl
  have hall : opField w ++ w.extractLsb' 0 40 = w.extractLsb' 0 42 :=
    BitVec.extractLsb'_append_extractLsb'_eq_extractLsb' rfl
  rw [hlow, hall, BitVec.extractLsb'_eq_self]

/-- Settles O12: the word of the decoded operation is made of the word's own fields, `op` among them
(`append_fields`). -/
theorem encodeOfDecode : Obligations.EncodeOfDecode := by
  intro w i hi
  rcases op_cases (opField w) with hop | hop | hop | hop
  · rw [decode_of_op_zero hop] at hi
    cases hi
    rw [encode, ← hop, append_fields]
  · rw [decode_of_op_one hop] at hi
    cases hi
    rw [encode, ← hop, append_fields]
  · rw [decode_of_op_two hop] at hi
    cases hi
    rw [encode, ← hop, append_fields]
  · rw [decode_of_op_three hop] at hi
    cases hi

/-! ### The mask of `op` -/

/-- R79: the mask leaves `op` and clears the operand fields. -/
theorem and_opMask (w : CmdWord) : w &&& 0x30000000000#42 = opField w ++ 0#40 := by
  have hmask : 0x30000000000#42 = 3#2 ++ (0#8 ++ 0#32) := by decide
  have hop : opField w &&& 3#2 = opField w := BitVec.and_allOnes
  calc w &&& 0x30000000000#42
    _ = (opField w ++ (addrField w ++ valueField w)) &&& (3#2 ++ (0#8 ++ 0#32)) := by
      rw [append_fields, hmask]
    _ = opField w ++ 0#40 := by
      rw [BitVec.and_append, BitVec.and_append, hop, BitVec.and_zero, BitVec.and_zero]; rfl

theorem and_opMask_eq_iff (w : CmdWord) (op : BitVec 2) :
    w &&& 0x30000000000#42 = op ++ 0#40 ↔ opField w = op := by
  rw [and_opMask]
  refine ⟨fun h => ?_, fun h => by rw [h]⟩
  have hfield := congrArg (BitVec.extractLsb' 40 2) h
  rwa [BitVec.extractLsb'_append_eq_left, BitVec.extractLsb'_append_eq_left] at hfield

/-- Settles O13: the masked word is `op` with 40 zeros behind it (`and_opMask_eq_iff`), and `op` alone
says what the word decodes to. -/
theorem decodeByMaskAndMatch : Obligations.DecodeByMaskAndMatch := by
  intro w
  have hsync : w &&& 0x30000000000#42 = 0x00000000000#42 ↔ opField w = 0 := and_opMask_eq_iff w 0
  have hwrite : w &&& 0x30000000000#42 = 0x10000000000#42 ↔ opField w = 1 := and_opMask_eq_iff w 1
  have hread : w &&& 0x30000000000#42 = 0x20000000000#42 ↔ opField w = 2 := and_opMask_eq_iff w 2
  have hreserved : w &&& 0x30000000000#42 = 0x30000000000#42 ↔ opField w = 3 := and_opMask_eq_iff w 3
  rw [hsync, hwrite, hread, hreserved]
  rcases op_cases (opField w) with hop | hop | hop | hop
  · simp [decode_of_op_zero hop, hop]
  · simp [decode_of_op_one hop, hop]
  · simp [decode_of_op_two hop, hop]
  · simp [decode_of_op_three hop, hop]

/-- Settles O14: the decoder evaluated at the five words. -/
theorem specWordsDecode : Obligations.SpecWordsDecode :=
  ⟨rfl, rfl, rfl, rfl, rfl⟩

end Sys2Proof
end

section
/-! PROOFS. Frames and bursts: the domain and the laws of `encode_bits` (R90, R95, R96), the Samples of
the six bursts (R64, R71) and their clock periods (R73 to R75). -/

namespace Sys2Proof.Machine

/-! ### The frame -/

/-- R91: the bits of the value at and above the width are not looked at. -/
theorem bitFrame_mod (p : Pins) (value width : Nat) :
    bitFrame p (value % 2 ^ width) width = bitFrame p value width := by
  refine List.flatMap_congr fun i hi => ?_
  have hi : i < width := List.mem_range.mp hi
  have hbit : width - 1 - i < width := by omega
  rw [Nat.testBit_mod_two_pow, decide_eq_true hbit, Bool.true_and]

/-- Settles O2: a width above 32 is refused, and `bitFrame_mod` says which bits count. -/
theorem encodeBitsDomain : Obligations.EncodeBitsDomain := by
  intro p value width
  refine ⟨fun h => if_neg ?_, ?_⟩
  · simpa [widthOk] using h
  · rw [encodeBits, encodeBits, bitFrame_mod]

/-- Settles O4, by induction on the width of the lower frame, one last bit at a time
(`bitFrame_succ`). -/
theorem frameConcatenation : Obligations.FrameConcatenation := by
  intro p value w1 w2
  induction w2 generalizing value with
  | zero => simp
  | succ w2 ih =>
    rw [← Nat.add_assoc, bitFrame_succ, ih, bitFrame_succ p value w2, List.append_assoc,
      ← Nat.shiftRight_add, Nat.add_comm 1 w2]

/-- R96: after the first bit the serialiser goes on as for the word without it. -/
theorem serialiserSlot_add_two (p : Pins) (operand width k : Nat) :
    serialiserSlot p operand (width + 1) (k + 2) = serialiserSlot p operand width k := by
  have hbit : width + 1 - 1 - (k + 2) / 2 = width - 1 - k / 2 := by omega
  rw [serialiserSlot, serialiserSlot, hbit, Nat.add_mod_right]

/-- R96: the first two slots are the pair of the most significant bit. -/
theorem serialiserSlot_first_pair (p : Pins) (operand width : Nat) :
    [serialiserSlot p operand (width + 1) 0, serialiserSlot p operand (width + 1) 1] =
      bitPair p (operand.testBit width) := by
  simp [serialiserSlot, bitPair]

/-- Settles O5, by induction on the width: both lists start with the pair of the most significant bit. -/
theorem serialiserProducesTheFrame : Obligations.SerialiserProducesTheFrame := by
  intro p value width
  induction width with
  | zero => rfl
  | succ width ih =>
    have hslots : List.range (2 * (width + 1)) = 0 :: 1 :: (List.range (2 * width)).map (· + 2) := by
      rw [Nat.mul_add, List.range_succ_eq_map, List.range_succ_eq_map]
      simp
    rw [bitFrame_succ_front, ih, ← serialiserSlot_first_pair, hslots]
    simp [Function.comp_def, serialiserSlot_add_two]

/-! ### The bursts -/

/-- Settles O10: two Samples per bit (`bitFrame_length`) and two for a trailer, a framing pair or a
pulse. -/
theorem burstSizes : Obligations.BurstSizes := by
  intro p a v
  refine ⟨?_, ?_, bitFrame_length p v.toNat dataW, ?_, ?_, rfl, rfl⟩
  all_goals exact (List.length_append).trans (congrArg (· + 2) (bitFrame_length _ _ _))

/-- Settles O9: the two bursts are one address frame with different trailers behind it. -/
theorem trailersDifferInMosiOnly : Obligations.TrailersDifferInMosiOnly := by
  intro p a hp k hk
  have hlen : (bitFrame p a.toNat addrW).length = 16 := bitFrame_length p a.toNat addrW
  refine ⟨fun hlow => ?_, fun hhigh => ?_⟩
  · rw [burstWR2, burstRD1, List.getD_append _ _ _ _ (by omega), List.getD_append _ _ _ _ (by omega)]
  · rw [burstWR2, burstRD1, List.getD_append_right _ _ _ _ (by omega),
      List.getD_append_right _ _ _ _ (by omega), hlen]
    obtain ⟨hclockMosi, -⟩ := hp
    obtain rfl | rfl : k = 16 ∨ k = 17 := by omega
    · simp [commitTrailer, readTrailer, BitVec.or_comm, mosiFlag, clockFlag, hclockMosi.symm]
    · simp [commitTrailer, readTrailer]

/-! ### Clock periods (R73, R74) -/

/-- A whole number of clock periods: Samples with CLOCK 1, each followed by itself with CLOCK cleared. -/
def ClockPeriods (p : Pins) (l : List Sample) : Prop :=
  ∃ highs : List Sample, (∀ x ∈ highs, asserted (clockFlag p) x = true) ∧
    l = highs.flatMap fun x => [x, x &&& ~~~clockFlag p]

theorem ClockPeriods.append {p : Pins} {l l' : List Sample} (h : ClockPeriods p l) (h' : ClockPeriods p l') :
    ClockPeriods p (l ++ l') := by
  obtain ⟨highs, hhigh, rfl⟩ := h
  obtain ⟨highs', hhigh', rfl⟩ := h'
  refine ⟨highs ++ highs', fun x hx => ?_, List.flatMap_append.symm⟩
  exact (List.mem_append.mp hx).elim (hhigh x) (hhigh' x)

theorem ClockPeriods.pair {p : Pins} {x y : Sample} (hx : asserted (clockFlag p) x = true)
    (hy : y = x &&& ~~~clockFlag p) : ClockPeriods p [x, y] :=
  ⟨[x], by simpa using hx, by simp [hy]⟩

theorem bitPair_clockPeriods {p : Pins} (hp : p.Valid) (b : Bool) : ClockPeriods p (bitPair p b) := by
  have hlow := bitPair_getElem?_one hp b
  rw [bitPair_getElem?_zero] at hlow
  exact .pair (by simp [clockFlag]) (Option.some.inj hlow)

theorem bitFrame_clockPeriods {p : Pins} (hp : p.Valid) (value width : Nat) :
    ClockPeriods p (bitFrame p value width) := by
  induction width with
  | zero => exact ⟨[], by simp, rfl⟩
  | succ width ih =>
    rw [bitFrame_succ_front]
    exact (bitPair_clockPeriods hp _).append ih

theorem commitTrailer_clockPeriods {p : Pins} (hp : p.Valid) : ClockPeriods p (commitTrailer p) := by
  obtain ⟨hclockMosi, -⟩ := hp
  have hmosi : mosiFlag p &&& ~~~clockFlag p = mosiFlag p := flagMask_and_not_of_ne hclockMosi.symm
  exact .pair (by simp [clockFlag]) (by simp [BitVec.and_or_distrib_right, hmosi])

theorem readTrailer_clockPeriods (p : Pins) : ClockPeriods p (readTrailer p) :=
  .pair (by simp [clockFlag]) (by simp)

theorem isBurst_clockPeriods {p : Pins} {l : List Sample} (hp : p.Valid) (h : IsBurst p l) :
    ClockPeriods p l := by
  rcases h with rfl | rfl | ⟨v, rfl⟩ | ⟨a, rfl⟩ | ⟨a, rfl⟩ | rfl
  · exact (bitFrame_clockPeriods hp _ _).append (bitPair_clockPeriods hp true)
  · exact (bitFrame_clockPeriods hp _ _).append (commitTrailer_clockPeriods hp)
  · exact bitFrame_clockPeriods hp _ _
  · exact (bitFrame_clockPeriods hp _ _).append (commitTrailer_clockPeriods hp)
  · exact (bitFrame_clockPeriods hp _ _).append (readTrailer_clockPeriods p)
  · rw [burstRDP_eq_bitPair]
    exact bitPair_clockPeriods hp false

/-- A list of pairs one Sample at a time: Sample `2j` is pair `j`'s first, Sample `2j + 1` its second. -/
theorem flatMap_pair_getD (f : Sample → Sample) (l : List Sample) {j : Nat} (hj : j < l.length) :
    (l.flatMap fun x => [x, f x]).getD (2 * j) 0 = l[j] ∧
    (l.flatMap fun x => [x, f x]).getD (2 * j + 1) 0 = f l[j] := by
  induction l generalizing j with
  | nil => simp at hj
  | cons x l ih =>
    cases j with
    | zero => exact ⟨rfl, rfl⟩
    | succ j => exact ih (Nat.lt_of_succ_lt_succ hj)

/-- Settles O7: every burst is a list of clock periods (`isBurst_clockPeriods`), read off pair by
pair. -/
theorem clockPeriodsAndStableLines : Obligations.ClockPeriodsAndStableLines := by
  intro p l hp hl
  obtain ⟨highs, hhigh, rfl⟩ := isBurst_clockPeriods hp hl
  refine ⟨highs.length, ?_, fun j hj => ?_⟩
  · simp [List.length_flatMap, Nat.mul_comm]
  · obtain ⟨hfirst, hsecond⟩ := flatMap_pair_getD (· &&& ~~~clockFlag p) highs hj
    rw [hfirst, hsecond]
    exact ⟨hhigh _ (List.getElem_mem hj), rfl⟩

/-! ### The emitted alphabet (R64) -/

theorem bitPair_mem_alphabet {p : Pins} {b : Bool} {x : Sample} (h : x ∈ bitPair p b) : x ∈ alphabet p := by
  cases b <;> rcases List.mem_pair.mp h with rfl | rfl <;> simp [alphabet, B1H, B1L, B0H, B0L]

theorem bitFrame_mem_alphabet {p : Pins} {value width : Nat} {x : Sample} (h : x ∈ bitFrame p value width) :
    x ∈ alphabet p := by
  obtain ⟨b, hx⟩ := mem_bitFrame h
  exact bitPair_mem_alphabet hx

theorem commitTrailer_mem_alphabet {p : Pins} {x : Sample} (h : x ∈ commitTrailer p) : x ∈ alphabet p := by
  rcases List.mem_pair.mp h with rfl | rfl <;> simp [alphabet, TCH, TCL, BitVec.or_comm]

theorem readTrailer_mem_alphabet {p : Pins} {x : Sample} (h : x ∈ readTrailer p) : x ∈ alphabet p := by
  rcases List.mem_pair.mp h with rfl | rfl <;> simp [alphabet, TRH, TRL]

/-- R64: the six bursts are made of the eight Samples. -/
theorem isBurst_mem_alphabet {p : Pins} {l : List Sample} (h : IsBurst p l) {x : Sample} (hx : x ∈ l) :
    x ∈ alphabet p := by
  rcases h with rfl | rfl | ⟨v, rfl⟩ | ⟨a, rfl⟩ | ⟨a, rfl⟩ | rfl
  · exact (List.mem_append.mp hx).elim bitFrame_mem_alphabet (bitPair_mem_alphabet (b := true))
  · exact (List.mem_append.mp hx).elim bitFrame_mem_alphabet commitTrailer_mem_alphabet
  · exact bitFrame_mem_alphabet hx
  · exact (List.mem_append.mp hx).elim bitFrame_mem_alphabet commitTrailer_mem_alphabet
  · exact (List.mem_append.mp hx).elim bitFrame_mem_alphabet readTrailer_mem_alphabet
  · rw [burstRDP_eq_bitPair] at hx
    exact bitPair_mem_alphabet hx

/-- R61, R64: a Sample of the alphabet has no bit outside the three output lines. -/
theorem alphabet_and_not_outputLines {p : Pins} {x : Sample} (h : x ∈ alphabet p) :
    x &&& ~~~outputLines p = 0 := by
  have hclock : clockFlag p &&& ~~~outputLines p = 0 := by
    ext i hi; simp [outputLines]; grind
  have hmosi : mosiFlag p &&& ~~~outputLines p = 0 := by
    ext i hi; simp [outputLines]; grind
  have hstrobe : strobeFlag p &&& ~~~outputLines p = 0 := by
    ext i hi; simp [outputLines]; grind
  simp only [alphabet, List.mem_cons, List.not_mem_nil, or_false] at h
  rcases h with rfl | rfl | rfl | rfl | rfl | rfl | rfl | rfl <;>
    simp [B1H, B1L, B0H, B0L, TCH, TCL, TRH, TRL, BitVec.and_or_distrib_right, hclock, hmosi, hstrobe]

/-- R60: the MISO bit is none of the three output lines. -/
theorem outputLines_miso {p : Pins} (hp : p.Valid) : (outputLines p).getLsbD p.miso = false := by
  obtain ⟨-, hclock, -, hmosi, -, hstrobe⟩ := hp
  simp only [outputLines, clockFlag, mosiFlag, strobeFlag, BitVec.getLsbD_or, flagMask_getLsbD]
  simp [hclock.symm, hmosi.symm, hstrobe]

/-- Settles O8: every Sample of a burst is in the alphabet (`isBurst_mem_alphabet`), so all its bits are
on output lines, and MISO is no output line. -/
theorem emittedAlphabetIsClosed : Obligations.EmittedAlphabetIsClosed := by
  intro p l hp hl x hx
  have hmem := isBurst_mem_alphabet hl hx
  have hlines := alphabet_and_not_outputLines hmem
  have hmiso := congrArg (fun y => y.getLsbD p.miso) hlines
  simp only [BitVec.getLsbD_and, BitVec.getLsbD_not, outputLines_miso hp] at hmiso
  exact ⟨hmem, by simpa using hmiso, hlines⟩

end Sys2Proof.Machine
end

section
/-! PROOFS. The invariant of the machine (`State.Inv`): at reset, and over every state operation a step is
made of. -/

namespace Sys2Proof.Machine

/-! ### The transaction in progress -/

/-- R126: a block that emits emits one of the six bursts. -/
theorem State.isBurst_of_transaction {s : State} {burst : List Sample} (h : s.transaction = some (.emit burst)) :
    IsBurst s.pins burst := by
  rw [State.transaction] at h
  cases hphase : s.phase <;> rw [hphase] at h <;> cases h
  case syW1 => exact .inl rfl
  case syW2 => exact .inr (.inl rfl)
  case wrW1 => exact .inr (.inr (.inl ⟨_, rfl⟩))
  case wrW2 => exact .inr (.inr (.inr (.inl ⟨_, rfl⟩)))
  case rdW1 => exact .inr (.inr (.inr (.inr (.inl ⟨_, rfl⟩))))
  case rdPulse => exact .inr (.inr (.inr (.inr (.inr rfl))))

/-- R9: a block that fetches asks for 1 or 2 Samples. -/
theorem State.fetch_count {s : State} {n : Nat} (h : s.transaction = some (.fetch n)) : n = 1 ∨ n = 2 := by
  rw [State.transaction] at h
  cases hphase : s.phase <;> rw [hphase] at h <;> cases h
  case rdDiscard => exact .inl rfl
  case rdFetch => exact .inr rfl

theorem State.failedEvent_legal {s : State} {t : Transaction} (h : s.transaction = some t) :
    t.failedEvent.Legal s.pins := by
  cases t with
  | purge => trivial
  | emit burst => exact State.isBurst_of_transaction h
  | fetch n => exact State.fetch_count h

/-! ### Samples driven in list order (R133) -/

/-- The last of `k + 1` Samples from Sample `d` on. -/
theorem getLast?_take_drop {burst : List Sample} {d k : Nat} (h : d + k < burst.length) :
    ((burst.drop d).take (k + 1)).getLast? = some (burst.getD (d + k) 0) := by
  have hlen : ((burst.drop d).take (k + 1)).length - 1 = k := by
    rw [List.length_take, List.length_drop]; omega
  rw [List.getLast?_eq_getElem?, hlen, List.getElem?_take_of_lt (Nat.lt_succ_self k), List.getElem?_drop,
    List.getD_eq_getElem?_getD, List.getElem?_eq_getElem h]
  rfl

/-- Driving Samples on does nothing, or puts some next Sample `driven + k` of the burst on the lines. -/
theorem State.driveFurther_cases (s : State) (burst : List Sample) (n : Nat) :
    s.driveFurther burst n = s ∨
    ∃ k, s.driven + k < burst.length ∧ s.driveFurther burst n =
      { s with lineOut := burst.getD (s.driven + k) 0, driven := s.driven + (k + 1) } := by
  cases hmin : min n (burst.length - s.driven) with
  | zero =>
    have hnone : (burst.drop s.driven).take n = [] := by
      rw [List.take_eq_nil_iff, List.drop_eq_nil_iff]; omega
    exact .inl (by simp [State.driveFurther, State.driveLines, hnone])
  | succ k =>
    have hlt : s.driven + k < burst.length := by omega
    have htake : (burst.drop s.driven).take n = (burst.drop s.driven).take (k + 1) := by
      rw [List.take_eq_take_min, List.length_drop, hmin]
    have hlen : ((burst.drop s.driven).take (k + 1)).length = k + 1 := by
      rw [List.length_take, List.length_drop]; omega
    refine .inr ⟨k, hlt, ?_⟩
    rw [State.driveFurther, htake, hlen, State.driveLines, getLast?_take_drop hlt]
    rfl

/-! ### The count of round-trips -/

/-- R116: the accumulator has one bit more than before. -/
theorem accumulate_toNat_lt {v : Value} {k : Nat} (b : Bool) (hv : v.toNat < 2 ^ k) :
    (accumulate v b).toNat < 2 ^ (k + 1) := by
  rw [accumulate, BitVec.toNat_or]
  refine Nat.or_lt_two_pow ?_ ?_
  · rw [BitVec.toNat_shiftLeft, Nat.shiftLeft_eq, pow_one, pow_succ]
    exact (Nat.mod_le _ _).trans_lt (by omega)
  · have hpos := Nat.two_pow_pos k
    cases b <;> simp [pow_succ]; omega

theorem bitcnt_succ {n : BitVec 6} (h : n.toNat < 32) : (n + 1).toNat = n.toNat + 1 := by
  rw [BitVec.toNat_add]
  exact Nat.mod_eq_of_lt (by simp; omega)

/-! ### Operations that keep the invariant -/

@[simp] theorem State.commitToTarget_driven (s : State) (m : EnvMove) :
    (s.commitToTarget m).driven = s.driven := by
  rw [State.commitToTarget]; split <;> rfl

@[simp] theorem State.commitToTarget_done (s : State) (m : EnvMove) : (s.commitToTarget m).done = s.done := by
  rw [State.commitToTarget]; split <;> rfl

namespace State.Inv

variable {s : State}

theorem takeAnswer (h : s.Inv) : s.takeAnswer.Inv := { h with doneIdle := nofun }

theorem takeMove (h : s.Inv) : s.takeMove.Inv := { h with }

theorem idleCycle (h : s.Inv) : s.idleCycle.Inv := { h with doneIdle := nofun }

theorem withBuffer (h : s.Inv) (l : List Sample) : (s.withBuffer l).Inv := { h with }

theorem setLink (h : s.Inv) (l : LinkPhase) : (s.setLink l).Inv := { h with }

theorem setRdata (h : s.Inv) (hdone : s.done = false) (v : Value) : (s.setRdata v).Inv :=
  { h with doneIdle := fun hd => absurd (hdone.symm.trans hd) Bool.false_ne_true }

theorem driven_of_idle (h : s.Inv) (hidle : s.phase = .idle) : s.driven = 0 := by
  rcases h.inOrder with h0 | ⟨burst, ht, -⟩
  · exact h0
  · simp [State.transaction, hidle, transactionOf] at ht

theorem latch (h : s.Inv) (hdriven : s.driven = 0) (a : Addr) (v : Value) : (s.latch a v).Inv :=
  { h with inOrder := .inl hdriven }

/-- R127: the sequencer may enter the read loop with fewer than 32 round-trips counted. -/
theorem goto (h : s.Inv) (hdriven : s.driven = 0) (hdone : s.done = false) {p : Phase}
    (hloop : p = .rdPulse ∨ p = .rdFetch → s.bitcnt.toNat < 32 ∧ s.acc.toNat < 2 ^ s.bitcnt.toNat) :
    (s.goto p).Inv :=
  { h with
    readLoop := hloop
    inOrder := .inl hdriven
    doneIdle := fun hd => absurd (hdone.symm.trans hd) Bool.false_ne_true }

theorem setCount (h : s.Inv) (hidle : s.phase = .idle) (v : Value) {n : BitVec 6} (hn : n.toNat ≤ 32) :
    (s.setCount v n).Inv :=
  { h with
    bitcntRange := hn
    readLoop := fun hloop => by simp [hidle] at hloop }

theorem record (h : s.Inv) {e : Event} (he : e.Legal s.pins) : (s.record e).Inv :=
  { h with
    inOrder := .inl rfl
    traceLegal := fun x hx => by
      rcases List.mem_append.mp hx with hx | hx
      · exact h.traceLegal x hx
      · exact List.mem_singleton.mp hx ▸ he }

theorem driveLines (h : s.Inv) (hdriven : s.driven = 0) {burst : List Sample} (hb : IsBurst s.pins burst) :
    (s.driveLines burst).Inv :=
  { h with
    inOrder := .inl hdriven
    lines := by
      cases hlast : burst.getLast? with
      | none => simpa [hlast] using h.lines
      | some x =>
        have hx : x ∈ alphabet s.pins := isBurst_mem_alphabet hb (List.mem_of_getLast? hlast)
        simpa [hlast] using .inr hx }

theorem driveFurther (h : s.Inv) {burst : List Sample} (ht : s.transaction = some (.emit burst)) (n : Nat) :
    (s.driveFurther burst n).Inv := by
  rcases State.driveFurther_cases s burst n with heq | ⟨k, hk, heq⟩
  · rwa [heq]
  · have hmem : burst.getD (s.driven + k) 0 ∈ burst := by
      rw [List.getD_eq_getElem _ _ hk]; exact List.getElem_mem hk
    rw [heq]
    exact { h with
      lines := .inr (isBurst_mem_alphabet (State.isBurst_of_transaction ht) hmem)
      inOrder := .inr ⟨burst, ht, hk, rfl⟩ }

theorem disturbTarget (h : s.Inv) (m : EnvMove) : (s.disturbTarget m).Inv :=
  { h with
    targetWf := fun t ht => by
      obtain ⟨T, hT, rfl⟩ := Option.map_eq_some_iff.mp ht
      exact Memory.writeAll_wf (h.targetWf T hT) _ }

theorem commitToTarget (h : s.Inv) (m : EnvMove) : (s.commitToTarget m).Inv := by
  rw [State.commitToTarget]
  split
  · exact { h with
      targetWf := fun t ht => by
        obtain ⟨T, hT, rfl⟩ := Option.map_eq_some_iff.mp ht
        exact Memory.write_wf (h.targetWf T hT) _ _ }
  · exact h.disturbTarget m

/-- R129: `done` comes with the block idle and its result last. -/
theorem endOperation (h : s.Inv) (hdriven : s.driven = 0) {c : Status} (hc : c.Produced) :
    (s.endOperation c).Inv :=
  { h with
    readLoop := by simp
    statusProduced := hc
    inOrder := .inl hdriven
    doneIdle := fun _ => ⟨rfl, by simp⟩
    resultsProduced := fun r hr => by
      rcases List.mem_append.mp hr with hr | hr
      · exact h.resultsProduced r hr
      · exact List.mem_singleton.mp hr ▸ hc }

theorem raiseIoError (h : s.Inv) (hdriven : s.driven = 0) (hdone : s.done = false) (m : EnvMove) :
    (s.raiseIoError m).Inv :=
  (((h.setLink .unknown).setRdata hdone _).disturbTarget m).endOperation hdriven (.inr (.inl rfl))

theorem applyReset (h : s.Inv) (m : EnvMove) : (s.applyReset m).Inv where
  pinsValid := h.pinsValid
  bitcntRange := by simp
  readLoop := by simp
  statusProduced := .inl rfl
  resultsProduced := by simp
  lines := .inl rfl
  inOrder := .inl rfl
  traceLegal := by simp
  doneIdle := nofun
  targetWf := (h.disturbTarget m).targetWf

theorem accept (h : s.Inv) {p : Phase} (hp : p.First) (a : Addr) (v : Value) : (s.accept p a v).Inv :=
  { h with
    readLoop := by rcases hp with rfl | rfl | rfl <;> simp
    inOrder := .inl rfl
    doneIdle := nofun }

theorem rejectCommand (h : s.Inv) (hidle : s.phase = .idle) (w : CmdWord) : (s.rejectCommand w).Inv :=
  (h.latch (h.driven_of_idle hidle) (addrField w) (valueField w)).endOperation
    (h.driven_of_idle hidle) (.inr (.inr rfl))

/-! ### One transaction -/

theorem partialEffect (h : s.Inv) {t : Transaction} (ht : s.transaction = some t) (n : Nat) (m : EnvMove) :
    (s.partialEffect t n m).Inv := by
  have hlegal := State.failedEvent_legal ht
  cases t with
  | purge => exact (h.withBuffer _).record hlegal
  | emit burst =>
    have hb := h.withBuffer (s.retBuf ++ m.arrived)
    exact (hb.driveFurther (burst := burst) ht n).record hlegal
  | fetch k => exact (h.withBuffer _).record hlegal

theorem keepWaiting (h : s.Inv) {t : Transaction} (ht : s.transaction = some t) (n : Nat) (m : EnvMove) :
    (s.keepWaiting t n m).Inv := by
  have hb := h.withBuffer (s.retBuf ++ m.arrived)
  rw [State.keepWaiting]
  cases t with
  | purge => rwa [Transaction.samples_purge, State.driveFurther_nil]
  | emit burst => exact hb.driveFurther (burst := burst) ht n
  | fetch k => rwa [Transaction.samples_fetch, State.driveFurther_nil]

/-- R116, R127: a round-trip counted and its bit accumulated; the 32nd leaves the loop. -/
theorem afterRoundTrip (h : s.Inv) (hphase : s.phase = .rdFetch) (hdriven : s.driven = 0)
    (hdone : s.done = false) (fetched : List Sample) : (s.afterRoundTrip fetched).Inv := by
  obtain ⟨hcnt, hacc⟩ := h.readLoop (.inr hphase)
  have hsucc := bitcnt_succ hcnt
  have hidle : (s.goto .idle).Inv := h.goto hdriven hdone (by simp)
  have hcount := hidle.setCount rfl (accumulate s.acc (receivedBit s.pins fetched)) (n := s.bitcnt + 1) (by omega)
  rcases State.afterRoundTrip_cases s fetched with ⟨hlt, heq⟩ | ⟨-, heq⟩
  · rw [heq]
    refine hcount.goto (p := .rdPulse) hdriven hdone fun _ => ⟨hlt, ?_⟩
    simp only [State.setCount_acc, State.setCount_bitcnt]
    rw [hsucc]
    exact accumulate_toNat_lt _ hacc
  · rw [heq]
    exact (hcount.setRdata hdone _).endOperation (c := .ok) hdriven (.inl rfl)

/-- R125: the register updates after a transaction that succeeded, whatever was fetched. -/
theorem advance (h : s.Inv) (hdriven : s.driven = 0) (hdone : s.done = false) (fetched : List Sample)
    (m : EnvMove) : (s.advance fetched m).Inv := by
  rw [State.advance]
  split
  case h_1 => exact h
  case h_2 => exact h.goto hdriven hdone (by simp)
  case h_3 => exact h.goto hdriven hdone (by simp)
  case h_4 => exact ((h.setLink .synced).setRdata hdone _).endOperation hdriven (.inl rfl)
  case h_5 => exact h.goto hdriven hdone (by simp)
  case h_6 =>
    have hcommit := (h.commitToTarget m).setRdata (by rwa [State.commitToTarget_done])
      (Config.freeRdata (s.commitToTarget m).draws)
    exact hcommit.endOperation (by rwa [State.setRdata_driven, State.commitToTarget_driven]) (.inl rfl)
  case h_7 => exact h.goto hdriven hdone (by simp)
  case h_8 =>
    have hidle : (s.goto .idle).Inv := h.goto hdriven hdone (by simp)
    exact (hidle.setCount rfl 0 (n := 0) (by simp)).goto (p := .rdPulse) hdriven hdone (by simp)
  case h_9 hphase => exact h.goto hdriven hdone fun _ => h.readLoop (.inl hphase)
  case h_10 hphase => exact h.afterRoundTrip hphase hdriven hdone fetched

theorem transact (h : s.Inv) (hb : s.phase ≠ .idle) : s.transact.Inv := by
  have ha := h.takeAnswer
  rcases State.transact_cases s hb with ⟨t, n, m, -, ht, heq⟩ | ⟨m, -, heq⟩ | ⟨t, n, m, ht, heq⟩ |
    ⟨m, ht, heq⟩ | ⟨l, m, ht, heq⟩ | ⟨n, m, fetched, ht, hn, hfetched, heq⟩ <;> rw [heq]
  · exact ha.keepWaiting ht n m
  · exact ha.applyReset m
  · exact (ha.partialEffect ht n m).raiseIoError (by cases t <;> rfl) (by cases t <;> rfl) m
  · exact ((ha.withBuffer _).record (e := .purge) trivial).advance rfl rfl _ m
  · have hl := State.isBurst_of_transaction ht
    exact (((ha.withBuffer _).record (e := .write l) hl).driveLines rfl hl).advance rfl rfl _ m
  · have hlen : fetched.length = n := by
      rw [hfetched, State.answeredByTarget_length, List.length_take]; omega
    exact ((ha.withBuffer _).record (e := .read n fetched) ⟨State.fetch_count ht, hlen⟩).advance rfl rfl _ m

end State.Inv

/-- R60: the binding of the block after reset. -/
theorem configPins_valid : Config.pins.Valid := by
  rw [Config.pins]
  split
  · assumption
  · decide

/-- Settles O51: the reset state is idle, with empty lists, and its lines at their reset level. -/
theorem resetMeetsInvariant : Obligations.ResetMeetsInvariant where
  pinsValid := configPins_valid
  bitcntRange := by decide
  readLoop := by simp [State.reset]
  statusProduced := .inl rfl
  resultsProduced := by simp [State.reset]
  lines := .inl rfl
  inOrder := .inl rfl
  traceLegal := by simp [State.reset]
  doneIdle := nofun
  targetWf := by simp [State.reset]

/-- Settles O52, by what a step can be (`step_keeps`): a transaction (`State.Inv.transact`) or a move of
the idle block. -/
theorem stepKeepsInvariant : Obligations.StepKeepsInvariant := fun _ _ hs hstep =>
  step_keeps (P := State.Inv) (fun _ hb h => h.transact hb) (fun _ => State.Inv.idleCycle)
    (fun _ => State.Inv.takeMove) (fun _ m h => h.applyReset m) (fun _ w hidle h => h.rejectCommand hidle w)
    (fun _ _ a v _ hp h => h.accept hp a v) hs hstep

end Sys2Proof.Machine
end

section
/-! PROOFS. The lines and the ports while a transaction runs (R23, R26, R133): list order, waiting, the
part of a failed transaction that took effect, and the falling edges of CLOCK (R74). -/

namespace Sys2Proof.Machine

/-- R124: a block with a transaction performs it in this step. -/
theorem step_of_transaction {s : State} {t : Transaction} (ht : s.transaction = some t) :
    step s = .next s.transact := by
  refine step_of_busy fun hidle => ?_
  rw [State.transaction_of_phase hidle] at ht
  cases ht

/-! ### Sample by Sample -/

section burst
variable {s : State} {burst : List Sample}

/-- R133: the `k + 1`st further Sample is Sample `driven + k`. -/
theorem State.linesDuring_succ (ht : s.transaction = some (.emit burst)) {k : Nat}
    (hk : s.driven + k < burst.length) : s.linesDuring (k + 1) = burst.getD (s.driven + k) 0 := by
  rw [State.linesDuring_eq ht, Transaction.samples_emit, getLast?_take_drop hk]
  rfl

/-- R133: the last Sample of a burst stays. -/
theorem State.linesDuring_succ_of_le (ht : s.transaction = some (.emit burst)) {k : Nat}
    (hk : burst.length ≤ s.driven + k) : s.linesDuring (k + 1) = s.linesDuring k := by
  have hlen : (burst.drop s.driven).length ≤ k := by rw [List.length_drop]; omega
  rw [State.linesDuring_eq ht, State.linesDuring_eq ht, Transaction.samples_emit,
    List.take_of_length_le (by omega), List.take_of_length_le hlen]

theorem State.burst_length_pos (ht : s.transaction = some (.emit burst)) : 0 < burst.length := by
  rcases State.isBurst_of_transaction ht with rfl | rfl | ⟨v, rfl⟩ | ⟨a, rfl⟩ | ⟨a, rfl⟩ | rfl <;>
    simp [burstSY1, burstSY2, burstWR1, burstWR2, burstRD1, burstRDP, syncDummyBits, addrW, dataW]

/-- R133: a completed burst leaves its last Sample on the lines. -/
theorem State.complete_emit_lines (ht : s.transaction = some (.emit burst)) (m : EnvMove) :
    (s.complete (.emit burst) m).lineOut = burst.getD (burst.length - 1) 0 ∧
    (s.complete (.emit burst) m).driven = 0 := by
  have hpos := State.burst_length_pos ht
  have hlast : burst.getLast? = some (burst.getD (burst.length - 1) 0) := by
    rw [List.getLast?_eq_getElem?, List.getD_eq_getElem _ _ (by omega), List.getElem?_eq_getElem]
  obtain ⟨-, -, -, -, -, -, hlines, -⟩ := State.advance_keeps
    (((s.withBuffer (s.retBuf ++ m.arrived)).driveLines burst).record (.write burst)) [] m
  refine ⟨?_, by rw [State.complete, State.advance_driven, State.record_driven]⟩
  rw [State.complete, hlines, State.record_lineOut, State.driveLines_lineOut, hlast]
  rfl

end burst

/-- Settles O42, Sample by Sample (`State.linesDuring_succ`); a completed burst leaves its last
(`State.complete_emit_lines`). -/
theorem linesShowTheBurstInOrder : Obligations.LinesShowTheBurstInOrder := by
  intro s burst ht
  refine ⟨s.linesDuring_zero, fun k hk => State.linesDuring_succ ht hk, fun m rest t ha hstep => ?_⟩
  rw [step_of_transaction ht, State.transact_completes ht (State.nextAnswer_cons ha)] at hstep
  cases hstep
  exact State.complete_emit_lines (s := s.takeAnswer) ht m

/-- R133: after a step of waiting the burst goes on from where it is. -/
theorem State.keepWaiting_linesDuring {s : State} {burst : List Sample} (ht : s.transaction = some (.emit burst))
    (n k : Nat) (m : EnvMove) :
    (s.keepWaiting (.emit burst) n m).linesDuring k = s.linesDuring (n + k) := by
  have hsame : (s.keepWaiting (.emit burst) n m).transaction = some (.emit burst) :=
    (State.transaction_congr rfl rfl rfl rfl).trans ht
  rw [State.linesDuring, State.linesDuring, hsame, ht]
  simp only [State.keepWaiting, Transaction.samples_emit, State.driveFurther_add]
  rfl

/-- R128, R133: a burst that fails leaves on the lines what `n` further Samples put there. -/
theorem State.failTransaction_lines {s : State} {burst : List Sample} (ht : s.transaction = some (.emit burst))
    (n : Nat) (m : EnvMove) : (s.failTransaction (.emit burst) n m).lineOut = s.linesDuring n := by
  rw [State.linesDuring, ht]
  rfl

/-- Settles O54, by what each answer does to the lines (`State.keepWaiting_linesDuring`,
`State.failTransaction_lines`). -/
theorem linesGoOnInListOrder : Obligations.LinesGoOnInListOrder := by
  intro s burst n m rest ht
  rw [step_of_transaction ht]
  refine ⟨fun ha => ⟨_, rfl, ?_⟩, fun ha => ⟨_, rfl, ?_⟩,
    fun ha => ⟨_, min n (burst.length - 1 - s.driven), rfl, ?_⟩⟩
  · rw [State.transact_notYet ht (State.nextAnswer_cons ha)]
    exact ⟨State.transaction_congr rfl rfl rfl rfl, Nat.le_add_right _ _,
      fun k => State.keepWaiting_linesDuring (s := s.takeAnswer) ht n k m⟩
  · rw [State.transact_error ht (State.nextAnswer_cons ha)]
    exact State.failTransaction_lines (s := s.takeAnswer) ht n m
  · rw [State.transact_short ht (State.nextAnswer_cons ha)]
    exact ⟨Nat.min_le_left _ _, State.failTransaction_lines (s := s.takeAnswer) ht _ m, fun _ => by omega⟩

/-! ### Falling edges of CLOCK (R74) -/

/-- R74: within a burst CLOCK falls at a Sample that is the one before it with CLOCK cleared. -/
theorem isBurst_falling_edge {p : Pins} {burst : List Sample} (hp : p.Valid) (hb : IsBurst p burst) {i : Nat}
    (hi : i < burst.length) (hlow : asserted (clockFlag p) (burst.getD i 0) = false) :
    0 < i ∧ burst.getD i 0 = burst.getD (i - 1) 0 &&& ~~~clockFlag p := by
  obtain ⟨n, hlen, hperiod⟩ := clockPeriodsAndStableLines p burst hp hb
  obtain ⟨hhigh, hsecond⟩ := hperiod (i / 2) (by omega)
  rcases Nat.mod_two_eq_zero_or_one i with heven | hodd
  · rw [show 2 * (i / 2) = i by omega, hlow] at hhigh
    cases hhigh
  · rw [show 2 * (i / 2) + 1 = i by omega, show 2 * (i / 2) = i - 1 by omega] at hsecond
    exact ⟨by omega, hsecond⟩

/-- R133: what the lines show when Sample `i > 0` of a burst is the next to be driven. -/
theorem State.Inv.linesDuring_eq_getD {s : State} {burst : List Sample} (h : s.Inv)
    (ht : s.transaction = some (.emit burst)) {k : Nat} (hpos : 0 < s.driven + k)
    (hk : s.driven + k ≤ burst.length) : s.linesDuring k = burst.getD (s.driven + k - 1) 0 := by
  cases k with
  | succ k => exact State.linesDuring_succ ht hk
  | zero =>
    rcases h.inOrder with h0 | ⟨burst', ht', -, hlines⟩
    · omega
    · obtain rfl : burst' = burst := by simpa [ht] using ht'.symm
      rw [State.linesDuring_zero, hlines, Nat.add_zero]

/-- Settles O55: lines that change show the next Sample of a burst, and before it the Sample in front of
it (`State.Inv.linesDuring_eq_getD`); between those two CLOCK falls alone (`isBurst_falling_edge`). -/
theorem linesStableAcrossFallingEdge : Obligations.LinesStableAcrossFallingEdge := by
  intro s k h hhigh hlow
  have hsame : s.linesDuring (k + 1) ≠ s.linesDuring k := fun heq => by simp [heq, hhigh] at hlow
  cases ht : s.transaction with
  | none => exact absurd (by simp [State.linesDuring, ht]) hsame
  | some t =>
    cases t with
    | purge => exact absurd (by simp [State.linesDuring, ht]) hsame
    | fetch n => exact absurd (by simp [State.linesDuring, ht]) hsame
    | emit burst =>
      have hk : s.driven + k < burst.length := by
        by_contra hge
        exact hsame (State.linesDuring_succ_of_le ht (not_lt.mp hge))
      rw [State.linesDuring_succ ht hk] at hlow ⊢
      obtain ⟨hpos, hedge⟩ :=
        isBurst_falling_edge h.pinsValid (State.isBurst_of_transaction ht) hk hlow
      rw [hedge, h.linesDuring_eq_getD ht hpos hk.le]

/-! ### Waiting (R132) -/

/-- The block after waiting steps with the given counts and moves: the Samples of its transaction are
driven on, and what has arrived stands in the return buffer. -/
def State.afterWaiting (s : State) (t : Transaction) (ws : List (Nat × EnvMove)) (rest : List Answer) : State :=
  { s.driveFurther t.samples (ws.map fun w => w.1).sum with
    answers := rest
    draws := s.draws + ws.length
    done := if ws = [] then s.done else false
    retBuf := s.retBuf ++ ws.flatMap fun w => w.2.arrived }

theorem runSteps_waiting {s : State} {t : Transaction} (ht : s.transaction = some t)
    {ws : List (Nat × EnvMove)} {rest : List Answer}
    (ha : s.answers = (ws.map fun w => .notYet w.1 w.2) ++ rest) :
    runSteps ws.length s = .next (s.afterWaiting t ws rest) := by
  induction ws generalizing s with
  | nil =>
    obtain rfl : s.answers = rest := ha
    simp [runSteps, State.afterWaiting]
  | cons w ws ih =>
    set u := s.takeAnswer.keepWaiting t w.1 w.2 with hu
    have hsame : u.transaction = s.transaction := State.transaction_congr rfl rfl rfl rfl
    have hstep : step s = .next u := by
      rw [step_of_transaction ht, State.transact_notYet ht (State.nextAnswer_cons ha)]
    have hrest : u.answers = (ws.map fun w => .notYet w.1 w.2) ++ rest := by simp [hu, ha]
    have hdrive : u.driveFurther t.samples (ws.map fun w => w.1).sum =
        (s.takeAnswer.withBuffer (s.retBuf ++ w.2.arrived)).driveFurther t.samples
          (w.1 + (ws.map fun w => w.1).sum) := State.driveFurther_add _ _ _ _
    rw [List.length_cons, runSteps, hstep]
    simp only
    rw [ih (hsame.trans ht) hrest, State.afterWaiting, hdrive]
    congr 1
    apply State.ext <;> simp [State.afterWaiting, hu]
    omega

/-- Settles O34, by the state after any number of waiting steps (`runSteps_waiting`). -/
theorem hangWhileNotCompleted : Obligations.HangWhileNotCompleted := by
  intro s ws rest hbusy ha
  obtain ⟨t, ht⟩ := State.transaction_isSome (State.busy_eq_true.mp hbusy)
  refine ⟨_, runSteps_waiting ht ha, ?_, fun burst hburst => ?_, fun hno => ?_⟩
  · apply State.ext <;> simp [State.afterWaiting, State.linesDuring, ht]
  · obtain rfl : t = .emit burst := by simpa [ht] using hburst
    simp [State.afterWaiting]
  · have hnone : t.samples = [] := by
      cases t with
      | purge => rfl
      | emit burst => exact absurd ht (hno burst)
      | fetch n => rfl
    simp [State.afterWaiting, hnone]

/-! ### The part of a failed transaction that took effect (R128) -/

/-- Settles O33: the burst's further Samples (`State.linesDuring_eq`), or fewer Samples of the fetch than
it asked for. -/
theorem partialEffectOfAFailedTransaction : Obligations.PartialEffectOfAFailedTransaction := by
  intro s n m rest ha
  have hanswer := State.nextAnswer_cons ha
  refine ⟨fun burst ht => ⟨_, step_of_transaction ht, ?_⟩,
    fun k ht => ⟨_, min n (k - 1), step_of_transaction ht, ?_⟩⟩
  · rw [State.transact_error ht hanswer]
    exact ⟨rfl, rfl⟩
  · have hcount := State.fetch_count ht
    rw [State.transact_error ht hanswer]
    exact ⟨by omega, by omega, by simp [State.failTransaction, State.partialEffect]⟩

/-! ### The ports (R26) -/

/-- Settles O41, by the transaction of the state. -/
theorem portsFollowTheTransaction : Obligations.PortsFollowTheTransaction := by
  intro s
  by_cases hidle : s.phase = .idle
  · have ht := State.transaction_of_phase hidle
    simp only [transactionOf] at ht
    simp [State.cmdReady, State.busy, hidle, State.txValid, State.rxReq, State.purgeReq, ht]
  · obtain ⟨t, ht⟩ := State.transaction_isSome hidle
    have hready : s.cmdReady = false := by simp [State.cmdReady, State.busy, hidle]
    cases t with
    | purge => simp [hready, State.txValid, State.rxReq, State.purgeReq, ht]
    | fetch n =>
      rcases State.fetch_count ht with rfl | rfl <;>
        simp [hready, State.txValid, State.rxReq, State.purgeReq, State.rxN, ht]
    | emit burst =>
      have hpos := State.burst_length_pos ht
      have hstream : s.txStream = burst.zipIdx.map fun x => (x.1, decide (x.2 + 1 = burst.length)) := by
        simp [State.txStream, ht]
      have hlast (k : Nat) (hk : k < burst.length) :
          (s.txStream.getD k (0, false)).2 = decide (k + 1 = burst.length) := by
        simp [hstream, hk]
      have hsamples : s.txStream.map (·.1) = burst := by
        simp [hstream, Function.comp_def]
      have hlen : s.txStream.length = burst.length := by simp [hstream]
      rw [hsamples, hlen]
      simpa [hready, State.txValid, State.rxReq, State.purgeReq, ht, hpos] using hlast

end Sys2Proof.Machine
end

section
/-! PROOFS. Single steps of the machine: the moves of an idle block (R122, R159, R161), one transaction in
each phase (R125), fault entry (R146), and what every step leaves in the trace and the results. -/

namespace Sys2Proof.Machine

/-! ### The idle block -/

theorem step_of_command {s : State} {w : CmdWord} {i : Instr} {rest : List HostMove} (hidle : s.phase = .idle)
    (hhost : s.host = .command w :: rest) (hw : decode w = .ok i) : step s = .next (s.takeMove.accepted i) := by
  simp [step, hidle, hhost, hw]

theorem step_of_reserved {s : State} {w : CmdWord} {rest : List HostMove} (hidle : s.phase = .idle)
    (hhost : s.host = .command w :: rest) (hw : opField w = 3) :
    step s = .next (s.takeMove.rejectCommand w) := by
  simp [step, hidle, hhost, decode_of_op_three hw]

theorem State.takeMove_eq {s : State} {x : HostMove} {rest : List HostMove} (h : s.host = x :: rest) :
    s.takeMove = { s with host := rest } := by
  rw [State.takeMove, h, List.tail_cons]

/-- Settles O28, by what each `op` decodes to. -/
theorem acceptanceOfACommand : Obligations.AcceptanceOfACommand := by
  intro s w rest hidle hhost
  have htake := State.takeMove_eq hhost
  refine ⟨fun hop => ?_, fun hop => ?_, fun hop => ?_, fun hop => ?_⟩
  · rw [step_of_command hidle hhost (decode_of_op_zero hop), htake]; rfl
  · rw [step_of_command hidle hhost (decode_of_op_one hop), htake]; rfl
  · rw [step_of_command hidle hhost (decode_of_op_two hop), htake]; rfl
  · exact ⟨_, step_of_reserved hidle hhost hop, rfl, rfl, rfl, rfl, rfl, rfl⟩

/-- Settles O46: the mask selects `op` (`and_opMask_eq_iff`), and 3 is the reserved one. -/
theorem reservedWordIsIllegalCommand : Obligations.ReservedWordIsIllegalCommand := by
  intro s w rest hidle hhost hmask
  have hop : opField w = 3 := (and_opMask_eq_iff w 3).mp hmask
  rw [step_of_reserved hidle hhost hop, State.takeMove_eq hhost, State.rejectCommand, State.endOperation]
  apply congrArg
  apply State.ext <;> simp [hidle, addrField, valueField]

/-- Settles O47, by the two ways of presenting nothing. -/
theorem idleBlockHolds : Obligations.IdleBlockHolds := by
  intro s hidle
  refine ⟨fun hhost => ?_, fun rest hhost => ?_⟩
  · simp [step, hidle, hhost, State.idleCycle]
  · simp [step, hidle, hhost, State.idleCycle, State.takeMove]

/-- Settles O48: `rst` during a transaction and while idle is the one reset of the block. -/
theorem resetAbortsTheOperation : Obligations.ResetAbortsTheOperation := by
  intro s m ans moves h
  rcases h with ⟨hbusy, ha⟩ | ⟨hidle, hhost⟩
  · have hbusy := State.busy_eq_true.mp hbusy
    refine ⟨s.takeAnswer.applyReset m, ?_, by simp⟩
    rw [step_of_busy hbusy, State.transact_rst hbusy (State.nextAnswer_cons ha)]
  · exact ⟨s.takeMove.applyReset m, by simp [step, hidle, hhost], by simp⟩

/-- Settles O49, by the reset state's fields. -/
theorem resetValues : Obligations.ResetValues := ⟨rfl, rfl, rfl, rfl, rfl, rfl⟩

/-- Settles O50, by the table of codes. -/
theorem statusCodes : Obligations.StatusCodes := ⟨rfl, rfl, rfl, rfl, rfl⟩

/-! ### What one transaction comes to -/

/-- A completed transaction of `s` has led to `u`, but for the register updates of its phase: registers,
binding, target and results are as in `s`, and one answer has been taken. -/
structure State.BeforeUpdates (s u : State) : Prop where
  phase : u.phase = s.phase
  addrQ : u.addrQ = s.addrQ
  valueQ : u.valueQ = s.valueQ
  acc : u.acc = s.acc
  bitcnt : u.bitcnt = s.bitcnt
  linkPhase : u.linkPhase = s.linkPhase
  done : u.done = false
  results : u.results = s.results
  pins : u.pins = s.pins
  target : u.target = s.target
  host : u.host = s.host
  answers : u.answers = s.answers.tail
  draws : u.draws = s.draws + 1

/-- What a transaction of a busy block comes to: it waits, `rst` cuts it, it fails, or it completes and the
registers are updated. -/
theorem State.transact_outcomes {s : State} (hb : s.phase ≠ .idle) :
    (s.toldNotYet = true ∧ ∃ t n m, s.transact = s.takeAnswer.keepWaiting t n m) ∨
    (∃ m, s.nextAnswer = .rst m ∧ s.transact = s.takeAnswer.applyReset m) ∨
    (∃ t n m, s.transaction = some t ∧ s.transact = (s.takeAnswer.partialEffect t n m).raiseIoError m) ∨
    (∃ u fetched m, s.BeforeUpdates u ∧ s.transact = u.advance fetched m) := by
  rcases State.transact_cases s hb with ⟨t, n, m, ha, -, heq⟩ | ⟨m, ha, heq⟩ | ⟨t, n, m, ht, heq⟩ | ⟨m, -, heq⟩ |
    ⟨l, m, -, heq⟩ | ⟨n, m, fetched, -, -, -, heq⟩
  · exact .inl ⟨State.toldNotYet_eq_true.mpr ⟨n, m, ha⟩, t, n, m, heq⟩
  · exact .inr (.inl ⟨m, ha, heq⟩)
  · exact .inr (.inr (.inl ⟨t, n, m, ht, heq⟩))
  · exact .inr (.inr (.inr ⟨_, _, m, by constructor <;> rfl, heq⟩))
  · exact .inr (.inr (.inr ⟨_, _, m, by constructor <;> rfl, heq⟩))
  · exact .inr (.inr (.inr ⟨_, _, m, by constructor <;> rfl, heq⟩))

/-- A transaction leaves the host's moves where they are (R123). -/
theorem State.transact_host {s : State} (hb : s.phase ≠ .idle) : s.transact.host = s.host := by
  rcases State.transact_outcomes hb with ⟨-, t, n, m, heq⟩ | ⟨m, -, heq⟩ | ⟨t, n, m, -, heq⟩ |
    ⟨u, fetched, m, hu, heq⟩ <;> rw [heq]
  · rfl
  · rfl
  · simp [State.partialEffect_keeps]
  · obtain ⟨-, hhost, -⟩ := u.advance_keeps fetched m
    exact hhost.trans hu.host

/-- Settles O35: a busy block steps by a transaction, which leaves the host's moves, and `exec` leaves it
alone. -/
theorem busyBlockAcceptsNothing : Obligations.BusyBlockAcceptsNothing := by
  intro s hbusy
  have hphase := State.busy_eq_true.mp hbusy
  refine ⟨by simp [State.cmdReady, hbusy], ⟨_, step_of_busy hphase, State.transact_host hphase⟩, fun i => ?_⟩
  obtain ⟨p, n, a, v, -, -, hexec⟩ := exec_eq_perform i
  obtain ⟨-, hexec⟩ := hexec s
  rw [hexec, State.perform_of_busy hphase]

/-! ### One transaction in each phase (R125) -/

/-- The step in which a transaction completes. -/
theorem step_completes {s : State} {t : Transaction} {m : EnvMove} {rest : List Answer}
    (ht : s.transaction = some t) (ha : s.answers = .completes m :: rest) :
    step s = .next (s.takeAnswer.complete t m) := by
  rw [step_of_transaction ht, State.transact_completes ht (State.nextAnswer_cons ha)]

/-- The block after a completed burst that leaves `x` on the lines, before the register updates of its
phase. -/
def State.emitted (s : State) (burst : List Sample) (x : Sample) (m : EnvMove) (rest : List Answer) : State :=
  { s with
    answers := rest
    draws := s.draws + 1
    done := false
    driven := 0
    retBuf := s.retBuf ++ m.arrived
    lineOut := x
    trace := s.trace ++ [.write burst] }

theorem State.complete_emit {s : State} {burst : List Sample} {x : Sample} {m : EnvMove} {rest : List Answer}
    (ha : s.answers = .completes m :: rest) (hlast : burst.getLast? = some x) :
    s.takeAnswer.complete (.emit burst) m = (s.emitted burst x m rest).advance [] m := by
  rw [State.complete, State.driveLines, hlast, State.takeAnswer, ha]
  rfl

/-- Settles O29: each burst leaves its last Sample on the lines (`State.complete_emit`), and
`State.advance` sets the next phase. -/
theorem stepThroughThePhases : Obligations.StepThroughThePhases := by
  intro s m rest ha
  refine ⟨fun h => ?_, fun h => ?_, fun h => ?_, fun h => ?_, fun h => ?_, fun h d more hbuf => ?_⟩
  · rw [step_completes (State.transaction_of_phase h) ha, State.takeAnswer, ha]
    simp only [State.complete, State.advance, State.record_phase, State.withBuffer_phase, h]
    rfl
  · rw [step_completes (State.transaction_of_phase h) ha, State.complete_emit ha (burstSY1_getLast? _)]
    simp only [State.advance, State.emitted, h]
    rfl
  · rw [step_completes (State.transaction_of_phase h) ha, State.complete_emit ha (burstWR1_getLast? _ _)]
    simp only [State.advance, State.emitted, h]
    rfl
  · rw [step_completes (State.transaction_of_phase h) ha, State.complete_emit ha (burstRD1_getLast? _ _)]
    simp only [State.advance, State.emitted, h]
    rfl
  · rw [step_completes (State.transaction_of_phase h) ha, State.complete_emit ha (burstRDP_getLast? _)]
    simp only [State.advance, State.emitted, h]
    rfl
  · have hsupply : s.takeAnswer.retBuf ++ m.arrived = d :: more := hbuf
    have hanswered : s.takeAnswer.answeredByTarget [d] = [d] := by
      simp [State.answeredByTarget, h]
    rw [step_completes (State.transaction_of_phase h) ha,
      State.complete_fetch (s := s.takeAnswer) (by rw [hsupply]; simp [discardN]), hsupply]
    simp only [discardN, List.take_succ_cons, List.take_zero, List.drop_succ_cons, List.drop_zero, hanswered]
    simp only [State.advance, State.record_phase, State.withBuffer_phase, State.takeAnswer, ha, h]
    rfl

/-- Settles O30, by the register updates of `SY_W2` and `WR_W2` after the completed burst
(`State.complete_emit`). -/
theorem lastBurstEndsTheOperation : Obligations.LastBurstEndsTheOperation := by
  intro s m rest ha
  refine ⟨fun h => ?_, fun h => ?_⟩
  · rw [step_completes (State.transaction_of_phase h) ha, State.complete_emit ha (burstSY2_getLast? _)]
    simp only [State.advance, State.emitted, h]
    rfl
  · rw [step_completes (State.transaction_of_phase h) ha, State.complete_emit ha (burstWR2_getLast? _ _)]
    simp only [State.advance, State.emitted, h]
    cases hlink : s.linkPhase <;> simp only [State.commitToTarget] <;> rfl

/-- Settles O31: the count goes up by one (`bitcnt_succ`), and it reaches 32 exactly from 31. -/
theorem roundTripCountsToThirtyTwo : Obligations.RoundTripCountsToThirtyTwo := by
  intro s m rest r0 r1 more hphase htarget hcnt ha hbuf acc after
  have hsucc := bitcnt_succ hcnt
  rw [step_rdFetch_completes hphase htarget ha hbuf, State.takeAnswer, ha]
  rcases State.afterRoundTrip_cases _ [r0, r1] with ⟨hlt, heq⟩ | ⟨hge, heq⟩ <;> rw [heq]
  · have hnot : s.bitcnt ≠ 31 := by rintro h; simp [h] at hlt
    rw [if_neg hnot]
    rfl
  · have hge : 32 ≤ (s.bitcnt + 1).toNat := hge
    have hlast : s.bitcnt = 31 := BitVec.eq_of_toNat_eq (by simp; omega)
    rw [if_pos hlast]
    rfl

/-! ### Faults (R128, R146) -/

/-- Every way of failing is `State.failTransaction`, with some count. -/
theorem State.transact_of_failing {s : State} {t : Transaction} (ht : s.transaction = some t)
    (hf : s.Failing) : ∃ n m, s.transact = s.takeAnswer.failTransaction t n m := by
  rw [State.Failing, ht] at hf
  cases ha : s.nextAnswer with
  | error n m => exact ⟨n, m, State.transact_error ht ha⟩
  | short n m => exact ⟨_, m, State.transact_short ht ha⟩
  | notYet n m => simp [ha] at hf
  | rst m => simp [ha] at hf
  | completes m =>
    cases t with
    | purge => simp [ha] at hf
    | emit burst => simp [ha] at hf
    | fetch n =>
      rw [ha] at hf
      rw [State.transact_completes ht ha]
      exact ⟨_, m, State.complete_fetch_short (s := s.takeAnswer) hf⟩

/-- Settles O32: every failure is one fault entry (`State.transact_of_failing`). -/
theorem faultEntry : Obligations.FaultEntry := by
  intro s t ht hf
  obtain ⟨n, m, hfail⟩ := State.transact_of_failing ht hf
  rw [step_of_transaction ht, hfail]
  refine ⟨_, rfl, ?_⟩
  cases t <;> simp [State.failTransaction, State.partialEffect, Transaction.failedEvent]

/-! ### The trace and the results of a step -/

/-- R10: a failed transaction leaves its event. -/
theorem State.partialEffect_trace (s : State) (t : Transaction) (n : Nat) (m : EnvMove) :
    (s.partialEffect t n m).trace = s.trace ++ [t.failedEvent] := by
  cases t <;> simp [State.partialEffect, Transaction.failedEvent]

/-- R49: short of `rst`, a step of a busy block adds one transaction to the trace, or none. -/
theorem State.transact_trace {s : State} (hb : s.phase ≠ .idle) :
    (∃ m, s.nextAnswer = .rst m) ∨
    ∃ es : List Event, es.length ≤ 1 ∧ s.transact.trace = s.trace ++ es := by
  rcases State.transact_cases s hb with ⟨t, n, m, -, -, heq⟩ | ⟨m, ha, -⟩ | ⟨t, n, m, -, heq⟩ | ⟨m, -, heq⟩ |
    ⟨l, m, -, heq⟩ | ⟨n, m, fetched, -, -, -, heq⟩
  · exact .inr ⟨[], by simp, by simp [heq]⟩
  · exact .inl ⟨m, ha⟩
  · exact .inr ⟨[t.failedEvent], le_rfl, by simp [heq, State.partialEffect_trace]⟩
  · exact .inr ⟨[.purge], le_rfl, by simp [heq, State.advance_keeps]⟩
  · exact .inr ⟨[.write l], le_rfl, by simp [heq, State.advance_keeps]⟩
  · exact .inr ⟨[.read n fetched], le_rfl, by simp [heq, State.advance_keeps]⟩

/-- Settles O39, by the step's cases: a busy block adds at most one event (`State.transact_trace`), an
idle one none, and `rst` empties the trace. -/
theorem traceOnlyGrows : Obligations.TraceOnlyGrows := by
  intro s t hstep
  refine ⟨fun hno => ?_, fun hreset => ?_⟩
  · have hgrows : ∃ es : List Event, es.length ≤ 1 ∧ t.trace = s.trace ++ es := by
      rcases step_cases hstep with ⟨hb, rfl⟩ | ⟨hidle, ⟨-, rfl⟩ | ⟨-, -, rfl⟩ | ⟨m, rest, hhost, -⟩ |
        ⟨-, -, -, rfl⟩ | ⟨-, -, -, -, -, -, -, rfl⟩⟩
      · rcases State.transact_trace hb with hrst | hes
        · exact absurd (.inl ⟨State.busy_eq_true.mpr hb, hrst⟩) hno
        · exact hes
      · exact ⟨[], by simp⟩
      · exact ⟨[], by simp⟩
      · exact absurd (.inr ⟨State.busy_eq_false.mpr hidle, m, rest, hhost⟩) hno
      · exact ⟨[], by simp⟩
      · exact ⟨[], by simp⟩
    obtain ⟨es, hlen, htrace⟩ := hgrows
    rw [htrace, List.length_append]
    exact ⟨List.prefix_append _ _, by omega⟩
  · obtain ⟨m, hreset⟩ := step_of_resetting hreset
    rw [hstep] at hreset
    rcases hreset with h | h <;> cases h <;> rfl

/-- R129: the operation has ended with one result, or goes on with none. -/
def State.EndedOrGoesOn (s t : State) : Prop :=
  (t.done = true ∧ t.phase = .idle ∧ t.results = s.results ++ [⟨t.status, t.rdata⟩]) ∨
  (t.done = false ∧ t.results = s.results)

/-- Short of `rst`, a step of a busy block ends the operation or goes on. -/
theorem State.transact_endedOrGoesOn {s : State} (hb : s.phase ≠ .idle) :
    (∃ m, s.nextAnswer = .rst m) ∨ s.EndedOrGoesOn s.transact := by
  rcases State.transact_outcomes hb with ⟨-, t, n, m, heq⟩ | ⟨m, ha, -⟩ | ⟨t, n, m, -, heq⟩ |
    ⟨u, fetched, m, hu, heq⟩
  · exact .inr (.inr (by simp [heq]))
  · exact .inl ⟨m, ha⟩
  · exact .inr (.inl (by simp [heq, State.partialEffect_keeps]))
  · rw [heq]
    rcases State.advance_ends u fetched m hu.done (hu.phase ▸ hb) with ⟨hd, hp, -, hr⟩ | ⟨hd, -, hr, -⟩
    · exact .inr (.inl ⟨hd, hp, hu.results ▸ hr⟩)
    · exact .inr (.inr ⟨hd, hr.trans hu.results⟩)

/-- Settles O38: a transaction ends the operation or goes on (`State.transact_endedOrGoesOn`), the
reserved word ends at once, and every other move of an idle block leaves no result. -/
theorem oneResultPerDone : Obligations.OneResultPerDone := by
  intro s t hstep
  have hends : s.Resetting ∨ s.EndedOrGoesOn t := by
    rcases step_cases hstep with ⟨hb, rfl⟩ | ⟨hidle, ⟨-, rfl⟩ | ⟨-, -, rfl⟩ | ⟨m, rest, hhost, -⟩ |
      ⟨-, -, -, rfl⟩ | ⟨-, -, -, -, -, -, -, rfl⟩⟩
    · rcases State.transact_endedOrGoesOn hb with hrst | hends
      · exact .inl (.inl ⟨State.busy_eq_true.mpr hb, hrst⟩)
      · exact .inr hends
    · exact .inr (.inr ⟨rfl, rfl⟩)
    · exact .inr (.inr ⟨rfl, rfl⟩)
    · exact .inl (.inr ⟨State.busy_eq_false.mpr hidle, m, rest, hhost⟩)
    · exact .inr (.inl ⟨rfl, rfl, rfl⟩)
    · exact .inr (.inr ⟨rfl, rfl⟩)
  have hresetting (hreset : s.Resetting) : t.done = false ∧ t.results = [] := by
    obtain ⟨m, hreset⟩ := step_of_resetting hreset
    rw [hstep] at hreset
    rcases hreset with h | h <;> cases h <;> exact ⟨rfl, rfl⟩
  refine ⟨fun hdone => ?_, fun hdone hno => ?_, hresetting⟩
  · rcases hends with hreset | ⟨-, hphase, hresults⟩ | ⟨hnot, -⟩
    · simp [hresetting hreset] at hdone
    · exact ⟨hphase, hresults⟩
    · simp [hnot] at hdone
  · rcases hends with hreset | ⟨hyes, -⟩ | ⟨-, hresults⟩
    · exact absurd hreset hno
    · simp [hyes] at hdone
    · exact hresults

end Sys2Proof.Machine
end

section
/-! PROOFS. SYNC and WRITE run whole (41_sync.md, 42_write.md): all transactions completed, and a fault in
each of them. -/

namespace Sys2Proof.Machine

/-! ### SYNC, one transaction after another -/

/-- The block that has accepted a SYNC and whose purge has completed. -/
def State.syncPurged (s : State) (a : Addr) (v : Value) (rest : List Answer) : State :=
  { s.accept .syW1 a v with
    answers := rest
    draws := s.draws + 1
    retBuf := []
    trace := s.trace ++ [.purge] }

/-- The block whose first burst has completed after that. -/
def State.syncDummySent (s : State) (a : Addr) (v : Value) (m : EnvMove) (rest : List Answer) : State :=
  { s.accept .syW2 a v with
    answers := rest
    draws := s.draws + 2
    retBuf := m.arrived
    lineOut := B1L s.pins
    trace := s.trace ++ [.purge, .write (burstSY1 s.pins)] }

theorem State.complete_syncPurged {s : State} (a : Addr) (v : Value) {m : EnvMove} {rest : List Answer}
    (ha : s.answers = .completes m :: rest) :
    (s.accept .syPurge a v).takeAnswer.complete .purge m = s.syncPurged a v rest := by
  rw [State.takeAnswer, State.accept_answers, ha]
  rfl

theorem State.complete_syncDummySent (s : State) (a : Addr) (v : Value) (m : EnvMove) (rest : List Answer) :
    (s.syncPurged a v (.completes m :: rest)).takeAnswer.complete (.emit (burstSY1 s.pins)) m =
      s.syncDummySent a v m rest := by
  rw [State.complete_emit rfl (burstSY1_getLast? s.pins)]
  apply State.ext <;> simp [State.emitted, State.advance, State.syncPurged, State.syncDummySent]

theorem State.run_syncPurged {s : State} (a : Addr) (v : Value) {m : EnvMove} {rest : List Answer}
    (ha : s.answers = .completes m :: rest) (n : Nat) :
    State.runOperation (n + 1) (s.accept .syPurge a v) = State.runOperation n (s.syncPurged a v rest) := by
  rw [State.run_completes (s := s.accept .syPurge a v) (t := .purge) n rfl ha,
    State.complete_syncPurged a v ha]

theorem State.run_syncDummySent (s : State) (a : Addr) (v : Value) (m : EnvMove) (rest : List Answer) (n : Nat) :
    State.runOperation (n + 1) (s.syncPurged a v (.completes m :: rest)) =
      State.runOperation n (s.syncDummySent a v m rest) := by
  rw [State.run_completes (t := .emit (burstSY1 s.pins)) n rfl rfl, State.complete_syncDummySent]

/-- Settles O15: purge, first burst, second burst, each completed. -/
theorem syncCompletes : Obligations.SyncCompletes := by
  intro s a v m0 m1 m2 rest hs ha
  rw [exec_sync, State.perform_of_idle hs, State.run_syncPurged a v ha, State.run_syncDummySent,
    State.run_completes (t := .emit (burstSY2 s.pins)) 0 rfl rfl,
    State.complete_emit rfl (burstSY2_getLast? s.pins)]
  congr 1
  apply State.ext <;> simp [State.runOperation, State.emitted, State.advance, State.syncDummySent, hs, TCL]
  exact ⟨rfl, rfl⟩

/-- R128, R146: a run whose next transaction fails is over, and what it leaves is the same for every
transaction. -/
theorem State.run_fails {s : State} {t : Transaction} {m : EnvMove} {k : Nat} {rest : List Answer} (n : Nat)
    (ht : s.transaction = some t) (ha : s.answers = .error k m :: rest) :
    ∃ u, State.runOperation (n + 1) s = u ∧ u.trace = s.trace ++ [t.failedEvent] ∧ u.linkPhase = .unknown ∧
      u.status = .transportIoError ∧ u.phase = .idle ∧ u.answers = rest ∧
      u.target = s.target.map (fun T => Memory.writeAll T m.changes) ∧
      (t.samples = [] → u.lineOut = s.lineOut) := by
  refine ⟨_, State.run_error n ht ha, ?_⟩
  cases t <;> simp +contextual [State.failTransaction, State.partialEffect, Transaction.failedEvent, ha]

/-- Settles O16: the run is over at the transaction that fails (`State.run_fails`). -/
theorem syncFaults : Obligations.SyncFaults := by
  intro s a v m0 m1 m2 n rest hs
  refine ⟨fun ha => ?_, fun ha => ?_, fun ha => ?_⟩
  · obtain ⟨u, hrun, htrace, hlink, hstatus, hphase, hanswers, -, hlines⟩ :=
      State.run_fails (s := s.accept .syPurge a v) (t := .purge) 2 rfl ha
    refine ⟨u, ?_, htrace, hlines rfl, hlink, hstatus, hphase, hanswers⟩
    rw [exec_sync, State.perform_of_idle hs, hrun]
  · obtain ⟨u, hrun, htrace, hlink, hstatus, hphase, hanswers, -⟩ :=
      State.run_fails (s := s.syncPurged a v (.error n m1 :: rest)) (t := .emit (burstSY1 s.pins)) 1 rfl rfl
    refine ⟨u, ?_, htrace.trans (List.append_assoc ..), hlink, hstatus, hphase, hanswers⟩
    rw [exec_sync, State.perform_of_idle hs, State.run_syncPurged a v ha, hrun]
  · obtain ⟨u, hrun, htrace, hlink, hstatus, hphase, hanswers, -⟩ := State.run_fails
      (s := s.syncDummySent a v m1 (.error n m2 :: rest)) (t := .emit (burstSY2 s.pins)) 0 rfl rfl
    refine ⟨u, ?_, htrace.trans (List.append_assoc ..), hlink, hstatus, hphase, hanswers⟩
    rw [exec_sync, State.perform_of_idle hs, State.run_syncPurged a v ha, State.run_syncDummySent, hrun]

/-! ### WRITE, one burst after the other -/

/-- The block whose value burst has completed, field by field. -/
theorem State.valueSent_eq {s : State} (a : Addr) (v : Value) {m : EnvMove} {rest : List Answer}
    (ha : s.answers = .completes m :: rest) :
    s.valueSent a v m = { s.accept .wrW2 a v with
      answers := rest
      draws := s.draws + 1
      retBuf := s.retBuf ++ m.arrived
      lineOut := if v.getLsbD 0 then B1L s.pins else B0L s.pins
      trace := s.trace ++ [.write (burstWR1 s.pins v)] } := by
  rw [State.valueSent, State.complete_emit (s := s.accept .wrW1 a v) ha (burstWR1_getLast? s.pins v)]
  rfl

/-- Settles O18: value burst (`State.valueSent_eq`), then address burst, whose effect on the target
depends on the link phase. -/
theorem writeCompletes : Obligations.WriteCompletes := by
  intro s a v m0 m1 rest hs ha
  rw [exec_write_completes a v hs ha, State.valueSent_eq a v ha,
    State.complete_emit rfl (burstWR2_getLast? s.pins a)]
  congr 1
  simp only [State.advance, State.emitted, State.accept_phase]
  cases hlink : s.linkPhase <;> apply State.ext <;> simp [State.commitToTarget, hlink, hs, TCL]

/-- R107, R40: a completed WRITE on a synchronised link with the ideal target attached. -/
theorem exec_write_ideal {s : State} {T : Memory} (a : Addr) (v : Value) {m0 m1 : EnvMove} {rest : List Answer}
    (hs : s.Trusted) (htarget : s.target = some T) (ha : s.answers = .completes m0 :: .completes m1 :: rest) :
    ∃ t, exec (.write a v) s = .next t ∧ t.Trusted ∧ t.target = some (Memory.write T a v) ∧
      t.retBuf = s.retBuf ++ m0.arrived ++ m1.arrived ∧ t.answers = rest := by
  obtain ⟨hidle, hlink⟩ := hs
  refine ⟨_, writeCompletes s a v m0 m1 rest hidle ha, ⟨hidle, hlink⟩, ?_, rfl, rfl⟩
  simp [htarget, hlink]

/-- Settles O19, by the target a completed WRITE leaves (`exec_write_ideal`). -/
theorem writeStoresOneRegister : Obligations.WriteStoresOneRegister := by
  intro s T a v m0 m1 rest hs htarget hwf ha
  obtain ⟨t, hexec, -, hstored, -⟩ := exec_write_ideal a v hs htarget ha
  exact ⟨t, Memory.write T a v, hexec, hstored, Memory.write_wf hwf a v, fun b => Memory.read_write hwf a b v⟩

/-- R108, R129: a transaction ends an operation with OK or with the fault's code. -/
theorem State.transact_status {s : State} (hb : s.phase ≠ .idle) (hdone : s.transact.done = true) :
    s.transact.status = .ok ∨ s.transact.status = .transportIoError := by
  rcases State.transact_outcomes hb with ⟨-, t, n, m, heq⟩ | ⟨m, -, heq⟩ | ⟨t, n, m, -, heq⟩ |
    ⟨u, fetched, m, hu, heq⟩ <;> rw [heq] at hdone ⊢
  · simp at hdone
  · simp at hdone
  · exact .inr rfl
  · rcases State.advance_ends u fetched m hu.done (hu.phase ▸ hb) with ⟨-, -, hok, -⟩ | ⟨hno, -⟩
    · exact .inl hok
    · simp [hno] at hdone

/-- Settles O20: the run is over at the burst that fails (`State.run_fails`), and no transaction ends with
another code (`State.transact_status`). -/
theorem writeFaults : Obligations.WriteFaults := by
  intro s a v m0 m1 n rest hs
  refine ⟨fun ha => ?_, fun ha => ?_, fun t ht => ?_⟩
  · obtain ⟨u, hrun, htrace, hlink, hstatus, hphase, hanswers, htarget, -⟩ :=
      State.run_fails (s := s.accept .wrW1 a v) (t := .emit (burstWR1 s.pins v)) 1 rfl ha
    refine ⟨u, ?_, htrace, hlink, hstatus, hphase, hanswers, htarget⟩
    rw [exec_write, State.perform_of_idle hs, hrun]
  · have hfirst : State.runOperation 2 (s.accept .wrW1 a v) = State.runOperation 1 (s.valueSent a v m0) :=
      State.run_completes 1 rfl ha
    have hanswers : (s.valueSent a v m0).answers = .error n m1 :: rest := by
      rw [s.valueSent_answers, ha, List.tail_cons]
    obtain ⟨u, hrun, htrace, hlink, hstatus, hphase, hrest, htarget, -⟩ :=
      State.run_fails 0 (s.valueSent_transaction a v m0) hanswers
    refine ⟨u, ?_, ?_, hlink, hstatus, hphase, hrest, ?_⟩
    · rw [exec_write, State.perform_of_idle hs, hfirst, hrun]
    · rw [htrace, s.valueSent_trace, List.append_assoc]; rfl
    · rw [htarget, State.valueSent_eq a v ha]; rfl
  · rw [exec_write, State.perform_of_idle hs] at ht
    cases ht
    exact State.runOperation_keeps (P := fun u => u.done = true → u.status = .ok ∨ u.status = .transportIoError)
      (fun u hb _ => State.transact_status hb) 2 _ (by simp)

end Sys2Proof.Machine
end

section
/-! PROOFS. READ run whole (43_read.md): its result as a function of the Samples returned and of the ideal
target (R40), a fault in any of its transactions (R118), and the steps of the three operations (R132). -/

namespace Sys2Proof.Machine

/-! ### The Samples a READ sees -/

theorem State.returnedPairs_getD (s : State) (k : Nat) {n i : Nat} (hi : i < n) (stream : List Sample) :
    (s.returnedPairs k n stream).getD i (0, 0) =
      s.returned (k + i) (stream.getD (2 * i) 0) (stream.getD (2 * i + 1) 0) := by
  rw [List.getD_eq_getElem _ _ (by rwa [State.returnedPairs_length])]
  simp [State.returnedPairs]

theorem State.returned_of_none {s : State} (h : s.target = none) (k : Nat) (x y : Sample) :
    s.returned k x y = (x, y) := by
  simp [State.returned, h]

/-- R8: a flag just set or cleared reads as such. -/
theorem asserted_withFlag (i : Fin 8) (b : Bool) (x : Sample) :
    asserted (flagMask i) (withFlag (flagMask i) b x) = b := by
  cases b <;> simp [asserted_flagMask, withFlag, flagMask_getLsbD]

/-- The pairs of a READ's 32 round-trips in the stream of Samples, behind the discarded one. -/
def streamPairs (stream : List Sample) : List (Sample × Sample) :=
  (List.range 32).map fun i => (stream.getD (2 * i + 1) 0, stream.getD (2 * i + 2) 0)

/-- R116, R117: the value accumulated from those pairs. -/
def receivedValue (p : Pins) (stream : List Sample) : Value :=
  (streamPairs stream).foldl (fun acc r => accumulate acc (r.2.getLsbD p.miso)) 0

theorem State.returnedPairs_of_none {s : State} (h : s.target = none) (stream : List Sample) :
    s.returnedPairs 0 32 (stream.drop 1) = streamPairs stream := by
  have hdrop (k : Nat) : (stream.drop 1).getD k 0 = stream.getD (k + 1) 0 := by
    rw [List.getD_eq_getElem?_getD, List.getD_eq_getElem?_getD, List.getElem?_drop, Nat.add_comm]
  simp only [State.returnedPairs, State.returned_of_none h, hdrop, streamPairs]

theorem receivedValue_getLsbD (p : Pins) (stream : List Sample) {i : Nat} (hi : i < 32) :
    (receivedValue p stream).getLsbD (31 - i) = (stream.getD (2 * i + 2) 0).getLsbD p.miso := by
  have hlen : (streamPairs stream).length = 32 := by simp [streamPairs]
  have hbit := accumulate_getLsbD p.miso (streamPairs stream) 0 hlen.le i (hlen ▸ hi)
  rw [hlen, List.getD_eq_getElem _ _ (hlen ▸ hi)] at hbit
  rw [receivedValue, hbit]
  simp [streamPairs]

/-- Settles O22: with no target the block sees the pairs of the stream as they are
(`State.returnedPairs_of_none`), and its result holds their MISO bits (`receivedValue_getLsbD`). -/
theorem readCompletes : Obligations.ReadCompletes := by
  intro s a v ms rest hidle htarget hlength hsupplied ha
  obtain ⟨stream, d, hstream, hlen, rfl, hrun⟩ := exec_read_run s a v ms rest hidle hlength hsupplied ha
  refine ⟨stream, receivedValue s.pins stream, hstream, hlen, fun i hi => receivedValue_getLsbD _ _ hi, ?_⟩
  rw [hrun, State.returnedPairs_of_none (s := { s with addrQ := a }) htarget]
  congr 1
  apply State.ext <;>
    simp [State.afterReadLoop, receivedValue, B0L, streamPairs, List.flatMap_map, hidle]

/-! ### The ideal target (R40) -/

/-- R40: the 32 bits the ideal target returns are those of the addressed register. -/
theorem State.afterReadLoop_rdata_of_target {s u : State} {T : Memory} (htarget : u.target = some T)
    (hlink : u.linkPhase = .synced) (hpins : u.pins = s.pins) (stream : List Sample) (rest : List Answer) :
    (s.afterReadLoop 32 stream rest (u.returnedPairs 0 32 stream)).rdata = Memory.read T u.addrQ := by
  refine BitVec.eq_of_getLsbD_eq fun j hj => ?_
  have hbit := State.afterReadLoop_rdata_getLsbD s stream rest (u.returnedPairs_length 0 32 stream)
    (i := 31 - j) (by omega)
  have hj' : 31 - (31 - j) = j := by omega
  rw [State.returnedPairs_getD _ _ (by omega), State.returned_synced htarget hlink, Nat.zero_add, hj', ← hpins]
    at hbit
  exact hbit.trans (asserted_withFlag _ _ _)

/-- R40: a READ of a synchronised link with the ideal target attached. -/
theorem exec_read_ideal {s : State} {T : Memory} (a : Addr) (v : Value) {ms : List EnvMove}
    {rest : List Answer} (hs : s.Trusted) (htarget : s.target = some T) (hlength : ms.length = 66)
    (hsupplied : FetchesSupplied s.retBuf ms) (ha : s.answers = ms.map .completes ++ rest) :
    ∃ t, exec (.read a v) s = .next t ∧ t.phase = .idle ∧ t.status = .ok ∧ t.linkPhase = .synced ∧
      t.rdata = Memory.read T a ∧ t.target = some T ∧ t.answers = rest := by
  obtain ⟨hidle, hlink⟩ := hs
  obtain ⟨stream, d, -, -, -, hrun⟩ := exec_read_run s a v ms rest hidle hlength hsupplied ha
  refine ⟨_, hrun, rfl, rfl, hlink, ?_, htarget, rfl⟩
  refine State.afterReadLoop_rdata_of_target (u := { s with addrQ := a }) htarget hlink ?_ _ _
  rfl

/-- Settles O24 (`exec_read_ideal`). -/
theorem readOfIdealTarget : Obligations.ReadOfIdealTarget := by
  intro s T a v ms rest hs htarget hlength hsupplied ha
  obtain ⟨t, hexec, hphase, hstatus, hlink, hrdata, hkept, -⟩ :=
    exec_read_ideal a v hs htarget hlength hsupplied ha
  exact ⟨t, hexec, hphase, hstatus, hlink, hrdata, hkept⟩

/-- Settles O25: the WRITE leaves a synchronised link and the target with `v` at `a`
(`exec_write_ideal`), and the READ returns what stands there (`exec_read_ideal`). -/
theorem writeThenReadReturnsTheValue : Obligations.WriteThenReadReturnsTheValue := by
  intro s T a v junk m0 m1 ms rest hs htarget hwf hlength hsupplied ha
  obtain ⟨t, hwrite, htrusted, hstored, hbuf, hrest⟩ := exec_write_ideal a v hs htarget ha
  obtain ⟨u, hread, -, hstatus, -, hrdata, -, hanswers⟩ :=
    exec_read_ideal a junk htrusted hstored hlength (hbuf ▸ hsupplied) hrest
  refine ⟨t, u, hwrite, hread, hstatus, ?_, hanswers⟩
  rw [hrdata, Memory.read_write hwf, if_pos rfl]

/-! ### Faults (R118) -/

/-- R126: the transaction of a READ's phase. -/
theorem readPhase_transaction {s : State} {k : Nat} (h : s.phase = readPhase k) :
    s.transaction = some (if k = 0 then .emit (burstRD1 s.pins s.addrQ) else if k = 1 then .fetch 1
      else if k % 2 = 0 then .emit (burstRDP s.pins) else .fetch 2) := by
  rw [State.transaction_of_phase h, readPhase]
  split_ifs <;> rfl

/-- A run whose next step ends the operation is over. -/
theorem State.runOperation_of_step_idle {s t : State} (hb : s.phase ≠ .idle) (htold : s.toldNotYet = false)
    (hstep : step s = .next t) (ht : t.phase = .idle) (n : Nat) : State.runOperation (n + 1) s = t := by
  rw [step_of_busy hb] at hstep
  cases hstep
  rw [State.runOperation_succ hb htold, State.runOperation_of_idle ht]

/-- Settles O23: after `k` completed transactions the READ is in the phase of the next
(`readProgress_reached`), whose failure is fault entry (`faultEntry`). -/
theorem readFaults : Obligations.ReadFaults := by
  intro s a v ms m n bad rest hidle hlength hsupplied hbad ha
  obtain ⟨u, hu, -, hexec⟩ := readProgress_reached (a := a) (v := v) hidle ha hsupplied ms.length le_rfl hlength
  have hbusy : u.phase ≠ .idle := hu.phase ▸ readPhase_ne_idle _
  have hanswers : u.answers = bad :: rest := by rw [hu.answers, List.drop_length]; rfl
  have hanswer := State.nextAnswer_cons hanswers
  have htold : u.toldNotYet = false := by
    rw [State.toldNotYet, hanswer]
    rcases hbad with rfl | rfl <;> rfl
  have ht := readPhase_transaction hu.phase
  have hfailing : u.Failing := by
    rw [State.Failing, ht, hanswer]
    rcases hbad with rfl | rfl <;> trivial
  obtain ⟨t, hstep, hphase, -, hstatus, hlink, hdone, hrdata, htrace, -, -, -, -, -, -, -, hrest⟩ :=
    faultEntry u _ ht hfailing
  have hrun := State.runOperation_of_step_idle hbusy htold hstep hphase (65 - ms.length)
  refine ⟨t, ?_, hphase, hdone, hstatus, hlink, ?_, ?_, ?_, ?_, ?_⟩
  · rw [hexec (65 - ms.length + 1) (by omega), hrun]
  · rw [hrdata, hu.draws]
  · rw [hrest, hanswers, List.tail_cons]
  · exact htrace ▸ hu.tracePrefix.trans (List.prefix_append _ _)
  · rw [htrace, List.length_append, hu.traceLength]; rfl
  · rw [htrace, List.getLast?_concat, hu.addrQ, hu.pins]
    split_ifs <;> rfl

/-! ### The steps of an operation (R132) -/

theorem State.toldNotYet_of_completes {s : State} {m : EnvMove} {rest : List Answer}
    (ha : s.answers = .completes m :: rest) : s.toldNotYet = false := by
  rw [State.toldNotYet, State.nextAnswer_cons ha]

/-- A run that is neither over nor kept waiting before its last transaction is as many steps. -/
theorem runSteps_eq_runOperation {n : Nat} {s : State}
    (h : ∀ k < n, ∃ u, runSteps k s = .next u ∧ u.phase ≠ .idle ∧ u.toldNotYet = false) :
    runSteps n s = .next (State.runOperation n s) := by
  induction n generalizing s with
  | zero => rfl
  | succ n ih =>
    obtain ⟨u, hu, hb, htold⟩ := h 0 (Nat.succ_pos n)
    obtain rfl : s = u := by simpa [runSteps] using hu
    have hfirst (k : Nat) : runSteps (k + 1) s = runSteps k s.transact := by
      rw [runSteps, step_of_busy hb]
    rw [hfirst, State.runOperation_succ hb htold]
    exact ih fun k hk => hfirst k ▸ h (k + 1) (Nat.succ_lt_succ hk)

/-- R131: steps that stay in the phases `p k`, none of them idle, up to the last one give what `exec`
answers. -/
theorem exec_eq_runSteps {i : Instr} {s u : State} {n : Nat} {p : Nat → Phase}
    (hexec : exec i s = .next (State.runOperation n u)) (hp : ∀ k, p k ≠ .idle)
    (h : ∀ k < n, ∃ t, runSteps k u = .next t ∧ t.phase = p k ∧ t.toldNotYet = false) :
    runSteps n u = exec i s := by
  rw [hexec]
  refine runSteps_eq_runOperation fun k hk => ?_
  obtain ⟨t, ht, hphase, htold⟩ := h k hk
  exact ⟨t, ht, hphase ▸ hp k, htold⟩

/-- R125: the phases of a SYNC. -/
theorem sync_steps {s : State} (a : Addr) (v : Value) {m0 m1 m2 : EnvMove} {rest : List Answer}
    (ha : s.answers = .completes m0 :: .completes m1 :: .completes m2 :: rest) :
    ∀ k < 3, ∃ t, runSteps k (s.accepted (.sync a v)) = .next t ∧
      t.phase = (if k = 0 then .syPurge else if k = 1 then .syW1 else .syW2) ∧ t.toldNotYet = false := by
  have hpurged (n : Nat) : runSteps (n + 1) (s.accept .syPurge a v) =
      runSteps n (s.syncPurged a v (.completes m1 :: .completes m2 :: rest)) := by
    rw [runSteps_completes (s := s.accept .syPurge a v) (t := .purge) n rfl ha,
      State.complete_syncPurged a v ha]
  have hsent : runSteps 1 (s.syncPurged a v (.completes m1 :: .completes m2 :: rest)) =
      .next (s.syncDummySent a v m1 (.completes m2 :: rest)) := by
    rw [runSteps_completes (t := .emit (burstSY1 s.pins)) 0 rfl rfl, State.complete_syncDummySent]
    rfl
  intro k hk
  obtain rfl | rfl | rfl : k = 0 ∨ k = 1 ∨ k = 2 := by omega
  · exact ⟨_, rfl, rfl, State.toldNotYet_of_completes ha⟩
  · exact ⟨_, hpurged 0, rfl, rfl⟩
  · exact ⟨_, (hpurged 1).trans hsent, rfl, rfl⟩

/-- R125: the phases of a WRITE. -/
theorem write_steps {s : State} (a : Addr) (v : Value) {m0 m1 : EnvMove} {rest : List Answer}
    (ha : s.answers = .completes m0 :: .completes m1 :: rest) :
    ∀ k < 2, ∃ t, runSteps k (s.accepted (.write a v)) = .next t ∧
      t.phase = (if k = 0 then .wrW1 else .wrW2) ∧ t.toldNotYet = false := by
  have hsent : runSteps 1 (s.accept .wrW1 a v) = .next (s.valueSent a v m0) :=
    runSteps_completes (t := .emit (burstWR1 s.pins v)) 0 rfl ha
  intro k hk
  obtain rfl | rfl : k = 0 ∨ k = 1 := by omega
  · exact ⟨_, rfl, rfl, State.toldNotYet_of_completes ha⟩
  · refine ⟨_, hsent, s.valueSent_phase a v m0, State.toldNotYet_of_completes (m := m1) (rest := rest) ?_⟩
    rw [s.valueSent_answers, ha, List.tail_cons]

/-- R125, R127: the phases of a READ, and its count of round-trips. -/
theorem read_steps {s : State} (a : Addr) (v : Value) {ms : List EnvMove} {rest : List Answer}
    (hidle : s.phase = .idle) (hlength : ms.length = 66) (hsupplied : FetchesSupplied s.retBuf ms)
    (ha : s.answers = ms.map .completes ++ rest) :
    ∀ k < 66, ∃ t, runSteps k (s.accepted (.read a v)) = .next t ∧ t.phase = readPhase k ∧
      t.toldNotYet = false ∧ (2 ≤ k → t.bitcnt.toNat = (k - 2) / 2) := by
  intro k hk
  have hfetches : SuppliedSoFar s.retBuf ms := fun j hj => hsupplied j (by omega)
  obtain ⟨u, hu, hrun, -⟩ := readProgress_reached (a := a) (v := v) hidle ha hfetches k (by omega) hk
  exact ⟨u, hrun, hu.phase, State.toldNotYet_of_completes (hu.next_answers (by omega)), hu.bitcnt⟩

/-- Settles O53: the phases of each operation (`sync_steps`, `write_steps`, `read_steps`), none of them
idle, so `exec` is as many steps (`exec_eq_runSteps`). -/
theorem stepsOfACompletedOperation : Obligations.StepsOfACompletedOperation := by
  intro s a v ms rest hidle ha
  refine ⟨fun hlength => ?_, fun hlength => ?_, fun hlength hsupplied => ?_⟩
  · obtain ⟨m0, m1, m2, rfl⟩ := List.length_eq_three.mp hlength
    have hsteps := sync_steps a v ha
    refine ⟨exec_eq_runSteps ?_ (fun k => ?_) hsteps, fun k hk => ?_⟩
    · rw [exec_sync, State.perform_of_idle hidle]; rfl
    · split_ifs <;> simp
    · obtain ⟨t, ht, hphase, -⟩ := hsteps k hk
      exact ⟨t, ht, hphase⟩
  · obtain ⟨m0, m1, rfl⟩ := List.length_eq_two.mp hlength
    have hsteps := write_steps a v ha
    refine ⟨exec_eq_runSteps ?_ (fun k => ?_) hsteps, fun k hk => ?_⟩
    · rw [exec_write, State.perform_of_idle hidle]; rfl
    · split_ifs <;> simp
    · obtain ⟨t, ht, hphase, -⟩ := hsteps k hk
      exact ⟨t, ht, hphase⟩
  · have hsteps := read_steps a v hidle hlength hsupplied ha
    refine ⟨exec_eq_runSteps ?_ readPhase_ne_idle fun k hk => ?_, fun k hk => ?_⟩
    · rw [exec_read, State.perform_of_idle hidle]; rfl
    · obtain ⟨t, ht, hphase, htold, -⟩ := hsteps k hk
      exact ⟨t, ht, hphase, htold⟩
    · obtain ⟨t, ht, hphase, -, hcnt⟩ := hsteps k hk
      exact ⟨t, ht, hphase, hcnt⟩

end Sys2Proof.Machine
end

section
/-! PROOFS. Operations under every answer of the environment: the run as steps (R131), how it ends (R132),
its frame (R15 to R18, R54), and that no register of an earlier operation enters it (R32). -/

namespace Sys2Proof.Machine

/-! ### The run as steps of the sequencer (R131) -/

/-- A run of at most `n` transactions is at most `n` steps. -/
theorem runOperation_eq_runSteps (n : Nat) (s : State) :
    ∃ k ≤ n, runSteps k s = .next (State.runOperation n s) := by
  induction n generalizing s with
  | zero => exact ⟨0, le_rfl, rfl⟩
  | succ n ih =>
    by_cases hb : s.phase = .idle
    · exact ⟨0, Nat.zero_le _, by rw [State.runOperation_of_idle hb]; rfl⟩
    · have hfirst (k : Nat) : runSteps (k + 1) s = runSteps k s.transact := by
        rw [runSteps, step_of_busy hb]
      cases htold : s.toldNotYet with
      | true => exact ⟨1, by omega, by rw [hfirst]; simp [runSteps, State.runOperation, hb, htold]⟩
      | false =>
        obtain ⟨k, hk, hrun⟩ := ih s.transact
        exact ⟨k + 1, by omega, by rw [hfirst, hrun, State.runOperation_succ hb htold]⟩

/-- Settles O36: `exec` is the run from the accepted state, a number of steps
(`runOperation_eq_runSteps`). -/
theorem execIsTheSequencerRun : Obligations.ExecIsTheSequencerRun := by
  intro i s hidle
  obtain ⟨p, n, a, v, -, hn, hexec⟩ := exec_eq_perform i
  obtain ⟨haccepted, hexec⟩ := hexec s
  obtain ⟨k, hk, hrun⟩ := runOperation_eq_runSteps n (s.accept p a v)
  exact ⟨k, hk.trans hn, by rw [haccepted, hexec, State.perform_of_idle hidle, hrun]⟩

/-- Settles O45: the first step accepts the operation, the others are its run
(`execIsTheSequencerRun`). -/
theorem stepRunsTheDecodedOperation : Obligations.StepRunsTheDecodedOperation := by
  intro s w i rest hidle hhost hw _
  have hstep : step s = .next (({ s with host := rest } : State).accepted i) := by
    rw [step_of_command hidle hhost hw, State.takeMove_eq hhost]
  obtain ⟨n, hn, hexec⟩ := execIsTheSequencerRun i { s with host := rest } hidle
  exact ⟨hstep, n, hn, by rw [runSteps, hstep, hexec]⟩

/-! ### An operation ends or waits (R132) -/

/-- R57, R127: how many transactions the operation in progress has left, when each completes. -/
def State.left (s : State) : Nat :=
  match s.phase with
  | .idle => 0
  | .syPurge => 3
  | .syW1 => 2
  | .syW2 => 1
  | .wrW1 => 2
  | .wrW2 => 1
  | .rdW1 => 66
  | .rdDiscard => 65
  | .rdPulse => 2 * (32 - s.bitcnt.toNat)
  | .rdFetch => 2 * (32 - s.bitcnt.toNat) - 1

/-- R127: in the read loop fewer than 32 round-trips are counted. -/
def State.LoopBounded (s : State) : Prop :=
  s.phase = .rdPulse ∨ s.phase = .rdFetch → s.bitcnt.toNat < 32

theorem State.left_pos {s : State} (hb : s.phase ≠ .idle) (hloop : s.LoopBounded) : 0 < s.left := by
  rw [State.LoopBounded] at hloop
  cases hphase : s.phase <;> simp_all [State.left]
  omega

theorem State.left_of_idle {s : State} (h : s.phase = .idle) : s.left = 0 := by
  simp [State.left, h]

/-- R125: the register updates of a completed transaction leave one transaction less. -/
theorem State.advance_left {s : State} (hb : s.phase ≠ .idle) (hloop : s.LoopBounded) (fetched : List Sample)
    (m : EnvMove) : (s.advance fetched m).left < s.left ∧ (s.advance fetched m).LoopBounded := by
  rw [State.LoopBounded] at hloop
  rw [State.advance]
  split
  case h_10 hphase =>
    have hcnt := hloop (.inr hphase)
    have hsucc := bitcnt_succ hcnt
    rcases State.afterRoundTrip_cases s fetched with ⟨hlt, heq⟩ | ⟨-, heq⟩ <;> rw [heq]
    · refine ⟨?_, fun _ => hlt⟩
      simp only [State.left, hphase, State.goto_phase, State.goto_bitcnt, State.setCount_bitcnt]
      omega
    · refine ⟨?_, by simp [State.LoopBounded]⟩
      simp only [State.left, hphase, State.endOperation_phase]
      omega
  all_goals simp_all [State.left, State.LoopBounded]

/-- A transaction that does not wait leaves one transaction less. -/
theorem State.transact_left {s : State} (hb : s.phase ≠ .idle) (hloop : s.LoopBounded)
    (htold : s.toldNotYet = false) : s.transact.left < s.left ∧ s.transact.LoopBounded := by
  have hpos := State.left_pos hb hloop
  rcases State.transact_outcomes hb with ⟨htold', -⟩ | ⟨m, -, heq⟩ | ⟨t, n, m, -, heq⟩ |
    ⟨u, fetched, m, hu, heq⟩
  · simp [htold] at htold'
  · rw [heq]
    exact ⟨by rwa [State.left_of_idle rfl], by simp [State.LoopBounded]⟩
  · rw [heq]
    exact ⟨by rwa [State.left_of_idle rfl], by simp [State.LoopBounded]⟩
  · have hleft : u.left = s.left := by rw [State.left, State.left, hu.phase, hu.bitcnt]
    rw [heq, ← hleft]
    refine State.advance_left (hu.phase ▸ hb) ?_ fetched m
    rwa [State.LoopBounded, hu.phase, hu.bitcnt]

/-- R132: every transaction takes one answer, waiting or not. -/
theorem State.transact_answers {s : State} (hb : s.phase ≠ .idle) :
    s.transact.answers = s.answers.tail ∧ s.transact.draws = s.draws + 1 := by
  rcases State.transact_outcomes hb with ⟨-, t, n, m, heq⟩ | ⟨m, -, heq⟩ | ⟨t, n, m, -, heq⟩ |
    ⟨u, fetched, m, hu, heq⟩ <;> rw [heq]
  · exact ⟨rfl, rfl⟩
  · exact ⟨rfl, rfl⟩
  · cases t <;> simp [State.partialEffect]
  · obtain ⟨-, -, -, hanswers, hdraws, -⟩ := u.advance_keeps fetched m
    exact ⟨hanswers.trans hu.answers, hdraws.trans hu.draws⟩

theorem State.answerAt_zero (s : State) : s.answerAt 0 = s.nextAnswer := by
  rw [State.answerAt, State.nextAnswer]
  cases s.answers <;> rfl

theorem State.transact_answerAt {s : State} (hb : s.phase ≠ .idle) (j : Nat) :
    s.transact.answerAt j = s.answerAt (j + 1) := by
  obtain ⟨hanswers, hdraws⟩ := State.transact_answers hb
  rw [State.answerAt, State.answerAt, hanswers, hdraws, Nat.add_assoc, Nat.add_comm 1 j]
  cases s.answers <;> rfl

/-- A run of as many transactions as are left ends, or the answer it took last was not yet. -/
theorem State.runOperation_ends_or_waits {n : Nat} {s : State} (hloop : s.LoopBounded) (hn : s.left ≤ n) :
    (State.runOperation n s).phase = .idle ∨
    ∃ j < n, (State.runOperation n s).draws = s.draws + j + 1 ∧ ∃ c m, s.answerAt j = .notYet c m := by
  induction n generalizing s with
  | zero =>
    refine .inl ?_
    by_contra hb
    exact absurd (State.left_pos (s := s) hb hloop) (by omega)
  | succ n ih =>
    by_cases hb : s.phase = .idle
    · exact .inl (by rwa [State.runOperation_of_idle hb])
    · cases htold : s.toldNotYet with
      | true =>
        obtain ⟨c, m, ha⟩ := State.toldNotYet_eq_true.mp htold
        refine .inr ⟨0, Nat.succ_pos n, ?_, c, m, by rw [State.answerAt_zero, ha]⟩
        simp [State.runOperation, hb, htold, State.transact_answers hb]
      | false =>
        obtain ⟨hleft, hbound⟩ := State.transact_left hb hloop htold
        rw [State.runOperation_succ hb htold]
        rcases ih hbound (by omega) with hidle | ⟨j, hj, hdraws, c, m, ha⟩
        · exact .inl hidle
        · obtain ⟨-, hdraw⟩ := State.transact_answers hb
          exact .inr ⟨j + 1, by omega, by omega, c, m, by rw [← State.transact_answerAt hb, ha]⟩

/-- `exec` runs an operation for exactly the transactions it has. -/
theorem exec_eq_run (i : Instr) : ∃ n ≤ 66, ∀ s : State, s.phase = .idle →
    exec i s = .next (State.runOperation n (s.accepted i)) ∧ (s.accepted i).left = n ∧
      (s.accepted i).LoopBounded := by
  cases i with
  | sync a v =>
    exact ⟨3, by omega, fun s hs => ⟨by rw [exec_sync, State.perform_of_idle hs]; rfl, rfl, by
      simp [State.LoopBounded]⟩⟩
  | write a v =>
    exact ⟨2, by omega, fun s hs => ⟨by rw [exec_write, State.perform_of_idle hs]; rfl, rfl, by
      simp [State.LoopBounded]⟩⟩
  | read a v =>
    exact ⟨66, by omega, fun s hs => ⟨by rw [exec_read, State.perform_of_idle hs]; rfl, rfl, by
      simp [State.LoopBounded]⟩⟩

theorem State.accepted_keeps (s : State) (i : Instr) :
    (s.accepted i).pins = s.pins ∧ (s.accepted i).host = s.host ∧ (s.accepted i).trace = s.trace ∧
    (s.accepted i).results = s.results ∧ (s.accepted i).acc = s.acc ∧ (s.accepted i).bitcnt = s.bitcnt ∧
    (s.accepted i).linkPhase = s.linkPhase ∧ (s.accepted i).target = s.target ∧
    (s.accepted i).answers = s.answers ∧ (s.accepted i).draws = s.draws := by
  cases i <;> simp

/-- Settles O37: the run is as long as the operation (`exec_eq_run`), so it ends or waits
(`State.runOperation_ends_or_waits`). -/
theorem operationEndsOrWaits : Obligations.OperationEndsOrWaits := by
  intro i s hidle
  obtain ⟨n, hn, hexec⟩ := exec_eq_run i
  obtain ⟨hexec, hleft, hloop⟩ := hexec s hidle
  obtain ⟨-, -, -, -, -, -, -, -, hanswers, hdraws⟩ := s.accepted_keeps i
  have hwaits (hbusy : (State.runOperation n (s.accepted i)).busy = true) :
      ∃ j < 66, (State.runOperation n (s.accepted i)).draws = s.draws + j + 1 ∧
        ∃ c m, s.answerAt j = .notYet c m := by
    rcases State.runOperation_ends_or_waits hloop hleft.le with hend | ⟨j, hj, hdraw, c, m, ha⟩
    · exact absurd hend (State.busy_eq_true.mp hbusy)
    · refine ⟨j, hj.trans_le hn, hdraws ▸ hdraw, c, m, ?_⟩
      rwa [State.answerAt, hanswers, hdraws] at ha
  refine ⟨_, hexec, hwaits, fun hlen hno => ?_⟩
  by_contra hbusy
  obtain ⟨j, hj, -, c, m, ha⟩ := hwaits (by simpa using hbusy)
  rw [State.answerAt, List.getD_eq_getElem _ _ (by omega)] at ha
  exact hno c m (ha ▸ List.getElem_mem _)

end Sys2Proof.Machine
end

section
/-! PROOFS. What an operation leaves unchanged (R15 to R18, R54, R107, R117), and that no register of an
earlier operation enters it (R32). -/

namespace Sys2Proof.Machine

/-! ### The operation in progress -/

/-- The first phase of the operation a phase belongs to (R121). -/
def Phase.operation : Phase → Phase
  | .idle => .idle
  | .syPurge | .syW1 | .syW2 => .syPurge
  | .wrW1 | .wrW2 => .wrW1
  | .rdW1 | .rdDiscard | .rdPulse | .rdFetch => .rdW1

/-- R125: the register updates stay in the operation or end it; only a READ's touch `acc` and `bitcnt`, only
a SYNC's the link phase, only a WRITE's the target. -/
theorem State.advance_frame (s : State) (fetched : List Sample) (m : EnvMove) :
    ((s.advance fetched m).phase = .idle ∨ (s.advance fetched m).phase.operation = s.phase.operation) ∧
    (s.phase.operation ≠ .rdW1 → (s.advance fetched m).acc = s.acc ∧ (s.advance fetched m).bitcnt = s.bitcnt) ∧
    (s.phase.operation ≠ .syPurge → (s.advance fetched m).linkPhase = s.linkPhase) ∧
    (s.phase.operation ≠ .wrW1 → (s.advance fetched m).target = s.target) := by
  rw [State.advance]
  split
  case h_6 hphase =>
    rw [State.commitToTarget]
    split <;> simp [hphase, Phase.operation]
  case h_10 hphase =>
    rcases State.afterRoundTrip_cases s fetched with ⟨-, heq⟩ | ⟨-, heq⟩ <;>
      simp [heq, hphase, Phase.operation]
  all_goals simp_all [Phase.operation]

/-- The frame of an operation between two of its states, short of `rst`. -/
structure State.Frame (s u : State) : Prop where
  pins : u.pins = s.pins
  host : u.host = s.host
  addrQ : u.addrQ = s.addrQ
  valueQ : u.valueQ = s.valueQ
  trace : s.trace <+: u.trace
  results : s.results <+: u.results
  operation : u.phase = .idle ∨ u.phase.operation = s.phase.operation
  count : s.phase.operation ≠ .rdW1 → u.acc = s.acc ∧ u.bitcnt = s.bitcnt
  link : s.phase.operation ≠ .syPurge → u.linkPhase = s.linkPhase ∨ u.linkPhase = .unknown
  target : s.phase.operation ≠ .wrW1 →
    u.target = s.target ∨ (u.phase = .idle ∧ u.done = true ∧ u.status = .transportIoError)

theorem State.Frame.refl (s : State) : s.Frame s where
  pins := rfl
  host := rfl
  addrQ := rfl
  valueQ := rfl
  trace := List.prefix_refl _
  results := List.prefix_refl _
  operation := .inr rfl
  count _ := ⟨rfl, rfl⟩
  link _ := .inl rfl
  target _ := .inl rfl

/-- Frames of a running operation compose. -/
theorem State.Frame.trans {s u t : State} (h : s.Frame u) (hb : u.phase ≠ .idle) (h' : u.Frame t) :
    s.Frame t := by
  have hop : u.phase.operation = s.phase.operation := h.operation.resolve_left hb
  refine { pins := h'.pins.trans h.pins, host := h'.host.trans h.host, addrQ := h'.addrQ.trans h.addrQ,
           valueQ := h'.valueQ.trans h.valueQ, trace := h.trace.trans h'.trace,
           results := h.results.trans h'.results, operation := hop ▸ h'.operation,
           count := fun hr => ?_, link := fun hs => ?_, target := fun hw => ?_ }
  · obtain ⟨hacc, hcnt⟩ := h.count hr
    obtain ⟨hacc', hcnt'⟩ := h'.count (hop ▸ hr)
    exact ⟨hacc'.trans hacc, hcnt'.trans hcnt⟩
  · rcases h'.link (hop ▸ hs) with hl | hl
    · exact hl ▸ h.link hs
    · exact .inr hl
  · have hsame : u.target = s.target := (h.target hw).resolve_right fun hend => hb hend.1
    exact hsame ▸ h'.target (hop ▸ hw)

theorem State.transact_frame {s : State} (hb : s.phase ≠ .idle) (hno : ∀ m, s.nextAnswer ≠ .rst m) :
    s.Frame s.transact := by
  have htrace : s.trace <+: s.transact.trace := by
    rcases State.transact_trace hb with ⟨m, hm⟩ | ⟨es, -, hes⟩
    · exact absurd hm (hno m)
    · exact hes ▸ List.prefix_append _ _
  have hresults : s.results <+: s.transact.results := by
    rcases State.transact_endedOrGoesOn hb with ⟨m, hm⟩ | ⟨-, -, hr⟩ | ⟨-, hr⟩
    · exact absurd hm (hno m)
    · exact hr ▸ List.prefix_append _ _
    · exact hr ▸ List.prefix_refl _
  have hhost := State.transact_host hb
  rcases State.transact_outcomes hb with ⟨-, t, n, m, heq⟩ | ⟨m, ha, -⟩ | ⟨t, n, m, -, heq⟩ |
    ⟨u, fetched, m, hu, heq⟩
  · rw [heq] at htrace hresults hhost ⊢
    exact { State.Frame.refl s with
      host := hhost, trace := htrace, results := hresults, target := fun _ => .inl rfl }
  · exact absurd ha (hno m)
  · obtain ⟨hpins, -, -, -, -, hacc, hcnt, haddr, hvalue, -⟩ := s.takeAnswer.partialEffect_keeps t n m
    rw [heq] at htrace hresults hhost ⊢
    exact { pins := hpins, host := hhost, addrQ := haddr, valueQ := hvalue, trace := htrace,
            results := hresults, operation := .inl rfl, count := fun _ => ⟨hacc, hcnt⟩,
            link := fun _ => .inr rfl, target := fun _ => .inr ⟨rfl, rfl, rfl⟩ }
  · obtain ⟨hop, hcount, hlink, htarget⟩ := u.advance_frame fetched m
    obtain ⟨hpins, -, -, -, -, -, -, haddr, hvalue⟩ := u.advance_keeps fetched m
    rw [hu.phase, hu.acc, hu.bitcnt] at hcount
    rw [hu.phase, hu.linkPhase] at hlink
    rw [hu.phase, hu.target] at htarget
    rw [heq] at htrace hresults hhost ⊢
    exact { pins := hpins.trans hu.pins, host := hhost, addrQ := haddr.trans hu.addrQ,
            valueQ := hvalue.trans hu.valueQ, trace := htrace, results := hresults, operation := hu.phase ▸ hop,
            count := hcount, link := fun h => .inl (hlink h), target := fun h => .inl (htarget h) }

/-- The frame of a run whose answers are all there and none of them `rst`. -/
theorem State.runOperation_frame {n : Nat} {s : State} (hlen : n ≤ s.answers.length)
    (hno : ∀ m, Answer.rst m ∉ s.answers) : s.Frame (State.runOperation n s) := by
  induction n generalizing s with
  | zero => exact .refl s
  | succ n ih =>
    by_cases hb : s.phase = .idle
    · rw [State.runOperation_of_idle hb]
      exact .refl s
    · obtain ⟨x, rest, ha⟩ := List.exists_cons_of_length_pos (Nat.lt_of_lt_of_le (Nat.succ_pos n) hlen)
      have hnext (m : EnvMove) : s.nextAnswer ≠ .rst m := by
        rw [State.nextAnswer_cons ha]
        rintro rfl
        exact hno m (ha ▸ List.mem_cons_self)
      have hframe := State.transact_frame hb hnext
      cases htold : s.toldNotYet with
      | true => simpa [State.runOperation, hb, htold] using hframe
      | false =>
        rw [State.runOperation_succ hb htold]
        by_cases hb' : s.transact.phase = .idle
        · rwa [State.runOperation_of_idle hb']
        · obtain ⟨hanswers, -⟩ := State.transact_answers hb
          rw [ha, List.tail_cons] at hanswers
          refine hframe.trans hb' (ih ?_ fun m hm => hno m ?_)
          · rw [ha, List.length_cons] at hlen
            rw [hanswers]
            exact Nat.le_of_succ_le_succ hlen
          · rw [hanswers] at hm
            exact ha ▸ List.mem_cons_of_mem _ hm

/-- Settles O44, by the frame of the run (`State.runOperation_frame`) at the accepted state. -/
theorem operationFrame : Obligations.OperationFrame := by
  intro i s t hidle hlen hno ht
  obtain ⟨n, hn, hexec⟩ := exec_eq_run i
  obtain ⟨hexec, -⟩ := hexec s hidle
  obtain ⟨hpins, hhost, htrace, hresults, hacc, hcnt, hlink, htarget, hanswers, -⟩ := s.accepted_keeps i
  have hframe : (s.accepted i).Frame t := by
    rw [hexec] at ht
    cases ht
    exact State.runOperation_frame (hanswers ▸ hn.trans hlen) (hanswers ▸ hno)
  refine ⟨hframe.pins.trans hpins, hframe.host.trans hhost, htrace ▸ hframe.trace, hresults ▸ hframe.results,
    fun a v hi => ?_, ?_, ?_, ?_⟩
  · rcases hi with rfl | rfl | rfl <;> exact ⟨hframe.addrQ, hframe.valueQ⟩
  · rintro ⟨a, v, rfl | rfl⟩ <;> exact hframe.count (by simp [Phase.operation])
  · rintro ⟨a, v, rfl | rfl⟩ <;> exact hframe.link (by simp [Phase.operation])
  · rintro ⟨a, v, rfl | rfl⟩ <;>
      exact (hframe.target (by simp [Phase.operation])).imp id fun ⟨_, hend⟩ => hend

/-! ### Only SYNC purges (R54) -/

theorem State.transact_operation {s : State} (hb : s.phase ≠ .idle) :
    s.transact.phase = .idle ∨ s.transact.phase.operation = s.phase.operation := by
  rcases State.transact_outcomes hb with ⟨-, t, n, m, heq⟩ | ⟨m, -, heq⟩ | ⟨t, n, m, -, heq⟩ |
    ⟨u, fetched, m, hu, heq⟩ <;>
    rw [heq]
  · exact .inr rfl
  · exact .inl rfl
  · exact .inl rfl
  · obtain ⟨hop, -⟩ := u.advance_frame fetched m
    exact hu.phase ▸ hop

theorem State.operation_of_purge {s : State} (h : s.transaction = some .purge) : s.phase.operation = .syPurge := by
  rw [State.transaction] at h
  cases hphase : s.phase <;> rw [hphase] at h <;> cases h
  rfl

/-- R54: a transaction of another operation than SYNC leaves no purge in the trace, completed or failed. -/
theorem State.transact_count_purge {s : State} (hb : s.phase ≠ .idle) (hop : s.phase.operation ≠ .syPurge)
    {e : Event} (he : e = .purge ∨ e = .purgeError) : s.transact.trace.count e ≤ s.trace.count e := by
  have hadd {e' : Event} (hne : e' ≠ e) : (s.trace ++ [e']).count e ≤ s.trace.count e := by
    rw [List.count_append, List.count_singleton, if_neg (by simpa using hne)]; rfl
  rcases State.transact_cases s hb with ⟨t, n, m, -, -, heq⟩ | ⟨m, -, heq⟩ | ⟨t, n, m, ht, heq⟩ | ⟨m, ht, -⟩ |
    ⟨l, m, -, heq⟩ | ⟨n, m, fetched, -, -, -, heq⟩
  · simp [heq]
  · simp [heq]
  · rw [heq, State.raiseIoError_trace, State.partialEffect_trace]
    refine hadd ?_
    cases t with
    | purge => exact absurd (State.operation_of_purge ht) hop
    | emit burst => rcases he with rfl | rfl <;> exact nofun
    | fetch n => rcases he with rfl | rfl <;> exact nofun
  · exact absurd (State.operation_of_purge ht) hop
  · obtain ⟨-, -, htrace, -⟩ := State.advance_keeps
      (((s.takeAnswer.withBuffer (s.retBuf ++ m.arrived)).driveLines l).record (.write l)) [] m
    rw [heq, htrace]
    exact hadd (by rcases he with rfl | rfl <;> exact nofun)
  · obtain ⟨-, -, htrace, -⟩ := State.advance_keeps
      ((s.takeAnswer.withBuffer ((s.retBuf ++ m.arrived).drop n)).record (.read n fetched)) fetched m
    rw [heq, htrace]
    exact hadd (by rcases he with rfl | rfl <;> exact nofun)

/-- The run of another operation than SYNC leaves no purge. -/
theorem State.runOperation_count_purge {s : State} (hop : s.phase.operation ≠ .syPurge) {e : Event}
    (he : e = .purge ∨ e = .purgeError) (n : Nat) :
    (State.runOperation n s).trace.count e ≤ s.trace.count e := by
  suffices h : (State.runOperation n s).phase.operation ≠ .syPurge ∧
      (State.runOperation n s).trace.count e ≤ s.trace.count e by exact h.2
  refine State.runOperation_keeps (P := fun u => u.phase.operation ≠ .syPurge ∧ u.trace.count e ≤ s.trace.count e)
    (fun u hb ⟨hu, hcount⟩ => ⟨?_, (State.transact_count_purge hb hu he).trans hcount⟩) n s ⟨hop, le_rfl⟩
  rcases State.transact_operation hb with hidle | hsame
  · rw [hidle]; exact nofun
  · rwa [hsame]

/-- Settles O40: a WRITE and a READ run in phases of their own (`State.runOperation_count_purge`). -/
theorem onlySyncPurges : Obligations.OnlySyncPurges := by
  intro s t a v ht
  by_cases hidle : s.phase = .idle
  · rw [exec_write, exec_read, State.perform_of_idle hidle, State.perform_of_idle hidle] at ht
    rcases ht with ht | ht <;> cases ht
    · exact ⟨State.runOperation_count_purge (s := s.accept .wrW1 a v) nofun (.inl rfl) 2,
        State.runOperation_count_purge (s := s.accept .wrW1 a v) nofun (.inr rfl) 2⟩
    · exact ⟨State.runOperation_count_purge (s := s.accept .rdW1 a v) nofun (.inl rfl) 66,
        State.runOperation_count_purge (s := s.accept .rdW1 a v) nofun (.inr rfl) 66⟩
  · rw [exec_write, exec_read, State.perform_of_busy hidle, State.perform_of_busy hidle] at ht
    rcases ht with ht | ht <;> cases ht <;> exact ⟨le_rfl, le_rfl⟩

end Sys2Proof.Machine
end

section
/-! PROOFS. Nothing an earlier operation left in the registers influences a later one (R32): two blocks that
agree on the rest stay so, one transaction after another. -/

namespace Sys2Proof.Machine

/-- Two blocks in one operation with no target attached, which may differ in what it does not read: the link
phase, the lines, the results so far, `acc` and `bitcnt` before the read loop, `status` and `rdata` before
its end. -/
structure State.Agree (s u : State) : Prop where
  phase : s.phase = u.phase
  addrQ : s.addrQ = u.addrQ
  valueQ : s.valueQ = u.valueQ
  driven : s.driven = u.driven
  done : s.done = u.done
  trace : s.trace = u.trace
  pins : s.pins = u.pins
  retBuf : s.retBuf = u.retBuf
  answers : s.answers = u.answers
  draws : s.draws = u.draws
  noTarget : s.target = none
  noTarget' : u.target = none
  readLoop : s.phase = .rdPulse ∨ s.phase = .rdFetch → s.acc = u.acc ∧ s.bitcnt = u.bitcnt
  result : s.done = true → s.status = u.status ∧ s.rdata = u.rdata

theorem State.disturbTarget_of_none {s : State} (h : s.target = none) (m : EnvMove) : s.disturbTarget m = s := by
  apply State.ext <;> simp [h]

theorem State.commitToTarget_of_none {s : State} (h : s.target = none) (m : EnvMove) :
    s.commitToTarget m = s := by
  rw [State.commitToTarget]
  split
  · apply State.ext <;> simp [h]
  · exact State.disturbTarget_of_none h m

namespace State.Agree

variable {s u : State}

theorem takeAnswer (h : s.Agree u) : s.takeAnswer.Agree u.takeAnswer :=
  { h with
    done := rfl
    answers := congrArg List.tail h.answers
    draws := congrArg (· + 1) h.draws
    result := nofun }

theorem withBuffer (h : s.Agree u) (l : List Sample) : (s.withBuffer l).Agree (u.withBuffer l) :=
  { h with retBuf := rfl }

theorem record (h : s.Agree u) (e : Event) : (s.record e).Agree (u.record e) :=
  { h with driven := rfl, trace := congrArg (· ++ [e]) h.trace }

theorem driveLines (h : s.Agree u) (l : List Sample) : (s.driveLines l).Agree (u.driveLines l) := { h with }

theorem driveFurther (h : s.Agree u) (l : List Sample) (n : Nat) :
    (s.driveFurther l n).Agree (u.driveFurther l n) :=
  { h with driven := by rw [State.driveFurther_driven, State.driveFurther_driven, h.driven] }

theorem setLink (h : s.Agree u) (l : LinkPhase) : (s.setLink l).Agree (u.setLink l) := { h with }

theorem goto (h : s.Agree u) {p : Phase}
    (hloop : p = .rdPulse ∨ p = .rdFetch → s.acc = u.acc ∧ s.bitcnt = u.bitcnt) :
    (s.goto p).Agree (u.goto p) :=
  { h with phase := rfl, readLoop := hloop }

theorem setCount (h : s.Agree u) (v : Value) (n : BitVec 6) : (s.setCount v n).Agree (u.setCount v n) :=
  { h with readLoop := fun _ => ⟨rfl, rfl⟩ }

/-- R129: the operation ends with one result in both. -/
theorem endOperation (h : s.Agree u) (v : Value) (c : Status) :
    ((s.setRdata v).endOperation c).Agree ((u.setRdata v).endOperation c) :=
  { h with
    phase := rfl
    done := rfl
    readLoop := by simp
    result := fun _ => ⟨rfl, rfl⟩ }

/-- R21: the free value of `rdata` is the same in both. -/
theorem endUnspecified (h : s.Agree u) (c : Status) :
    (s.rdataUnspecified.endOperation c).Agree (u.rdataUnspecified.endOperation c) := by
  rw [State.rdataUnspecified, State.rdataUnspecified, h.draws]
  exact h.endOperation _ c

theorem raiseIoError (h : s.Agree u) (m : EnvMove) : (s.raiseIoError m).Agree (u.raiseIoError m) := by
  rw [State.raiseIoError, State.raiseIoError,
    State.disturbTarget_of_none (s := (s.setLink .unknown).rdataUnspecified) h.noTarget,
    State.disturbTarget_of_none (s := (u.setLink .unknown).rdataUnspecified) h.noTarget']
  exact (h.setLink .unknown).endUnspecified _

theorem applyReset (h : s.Agree u) (m : EnvMove) : (s.applyReset m).Agree (u.applyReset m) where
  phase := rfl
  addrQ := rfl
  valueQ := rfl
  driven := rfl
  done := rfl
  trace := rfl
  pins := h.pins
  retBuf := rfl
  answers := h.answers
  draws := h.draws
  noTarget := by simp [h.noTarget]
  noTarget' := by simp [h.noTarget']
  readLoop := by simp
  result := nofun

theorem partialEffect (h : s.Agree u) (t : Transaction) (n : Nat) (m : EnvMove) :
    (s.partialEffect t n m).Agree (u.partialEffect t n m) := by
  cases t with
  | purge =>
    rw [State.partialEffect, State.partialEffect, h.retBuf]
    exact (h.withBuffer _).record _
  | emit burst =>
    rw [State.partialEffect, State.partialEffect, h.retBuf]
    exact ((h.withBuffer _).driveFurther _ _).record _
  | fetch k =>
    rw [State.partialEffect, State.partialEffect, h.retBuf]
    exact (h.withBuffer _).record _

theorem afterRoundTrip (h : s.Agree u) (hphase : s.phase = .rdFetch) (fetched : List Sample) :
    (s.afterRoundTrip fetched).Agree (u.afterRoundTrip fetched) := by
  obtain ⟨hacc, hcnt⟩ := h.readLoop (.inr hphase)
  rw [State.afterRoundTrip, State.afterRoundTrip, hacc, hcnt, h.pins]
  have hcount := h.setCount (accumulate u.acc (receivedBit u.pins fetched)) (u.bitcnt + 1)
  split
  · exact hcount.goto fun _ => ⟨rfl, rfl⟩
  · exact hcount.endOperation _ .ok

/-- R125: the register updates depend on nothing the two differ in. -/
theorem advance (h : s.Agree u) (fetched : List Sample) (m : EnvMove) :
    (s.advance fetched m).Agree (u.advance fetched m) := by
  rw [State.advance, State.advance, ← h.phase, State.commitToTarget_of_none h.noTarget,
    State.commitToTarget_of_none h.noTarget']
  split
  case h_1 => exact h
  case h_2 => exact h.goto (by simp)
  case h_3 => exact h.goto (by simp)
  case h_4 => exact (h.setLink .synced).endUnspecified .ok
  case h_5 => exact h.goto (by simp)
  case h_6 => exact h.endUnspecified .ok
  case h_7 => exact h.goto (by simp)
  case h_8 => exact (h.setCount 0 0).goto fun _ => ⟨rfl, rfl⟩
  case h_9 hphase => exact h.goto fun _ => h.readLoop (.inl hphase)
  case h_10 hphase => exact h.afterRoundTrip hphase fetched

theorem complete (h : s.Agree u) (t : Transaction) (m : EnvMove) : (s.complete t m).Agree (u.complete t m) := by
  cases t with
  | purge => exact ((h.withBuffer _).record _).advance _ _
  | emit burst =>
    rw [State.complete, State.complete, h.retBuf]
    exact (((h.withBuffer _).driveLines _).record _).advance _ _
  | fetch n =>
    rw [State.complete, State.complete, State.answeredByTarget_of_none h.noTarget,
      State.answeredByTarget_of_none h.noTarget', h.retBuf]
    split
    · exact (h.partialEffect _ _ m).raiseIoError m
    · exact ((h.withBuffer _).record _).advance _ _

theorem keepWaiting (h : s.Agree u) (t : Transaction) (n : Nat) (m : EnvMove) :
    (s.keepWaiting t n m).Agree (u.keepWaiting t n m) := by
  rw [State.keepWaiting, State.keepWaiting, h.retBuf]
  exact (h.withBuffer _).driveFurther _ _

theorem nextAnswer (h : s.Agree u) : s.nextAnswer = u.nextAnswer := by
  rw [State.nextAnswer, State.nextAnswer, h.answers, h.draws]

theorem transact (h : s.Agree u) : s.transact.Agree u.transact := by
  have ha := h.takeAnswer
  rw [State.transact, State.transact, State.transaction_congr h.phase h.addrQ h.valueQ h.pins, h.nextAnswer,
    h.driven]
  split
  · exact h
  · split
    · exact ha.complete _ _
    · exact (ha.partialEffect _ _ _).raiseIoError _
    · exact (ha.partialEffect _ _ _).raiseIoError _
    · exact ha.keepWaiting _ _ _
    · exact ha.applyReset _

theorem runOperation (h : s.Agree u) (n : Nat) : (State.runOperation n s).Agree (State.runOperation n u) := by
  induction n generalizing s u with
  | zero => exact h
  | succ n ih =>
    have hbusy : s.busy = u.busy := by rw [State.busy, State.busy, h.phase]
    have htold : s.toldNotYet = u.toldNotYet := by rw [State.toldNotYet, State.toldNotYet, h.nextAnswer]
    rw [State.runOperation, State.runOperation, hbusy, htold]
    split
    · split
      · exact h.transact
      · exact ih h.transact
    · exact h

end State.Agree

/-- Settles O43: the accepted states agree, and the run keeps that (`State.Agree.runOperation`). -/
theorem noStateBetweenOperations : Obligations.NoStateBetweenOperations := by
  intro i s u t w hs hu htarget htarget' hpins hanswers hdraws hbuf htrace ht hw
  obtain ⟨p, n, a, v, hp, -, hexec⟩ := exec_eq_perform i
  have haccept : (s.accept p a v).Agree (u.accept p a v) :=
    { phase := rfl, addrQ := rfl, valueQ := rfl, driven := rfl, done := rfl, trace := htrace, pins := hpins,
      retBuf := hbuf, answers := hanswers, draws := hdraws, noTarget := htarget, noTarget' := htarget',
      readLoop := by rcases hp with rfl | rfl | rfl <;> simp
      result := nofun }
  have hrun := haccept.runOperation n
  obtain ⟨-, hexecs⟩ := hexec s
  obtain ⟨-, hexecu⟩ := hexec u
  rw [hexecs, State.perform_of_idle hs] at ht
  rw [hexecu, State.perform_of_idle hu] at hw
  cases ht
  cases hw
  exact ⟨hrun.trace, hrun.phase, hrun.retBuf, hrun.answers, hrun.draws, hrun.done, hrun.result⟩

end Sys2Proof.Machine
end
